-- ==== Sys2Proof/Word.lean ====
section
/-! DEFINITION. The units of the block's data: bytes, the two wider words, the 6-byte device identifier and the
stored configuration (00_scope.md R7, 10_state.md R21, R26). -/

namespace Sys2Proof

/-- R7: a byte is 8 bits; bit 0 is its least significant bit. -/
abbrev Byte := BitVec 8

/-- R7: `u16`, an unsigned 16-bit integer. -/
abbrev U16 := BitVec 16

/-- R7, R118: `u64`, an unsigned 64-bit count of microseconds, arithmetic modulo 2^64. -/
abbrev U64 := BitVec 64

/-- R26, R44: a UID is 6 bytes in bus order: `m0 m1` the manufacturer ID, `d0 d1 d2 d3` the device ID, each most
significant byte first. -/
structure Uid where
  m0 : Byte
  m1 : Byte
  d0 : Byte
  d1 : Byte
  d2 : Byte
  d3 : Byte
  deriving DecidableEq, Repr, Inhabited

/-- R21: break time, mark-after-break time, DMX refresh rate; three bytes that the block never interprets. -/
structure WidgetConfig where
  breakTime : Byte
  mabTime : Byte
  refreshRate : Byte
  deriving DecidableEq, Repr, Inhabited

end Sys2Proof
end

