-- ==== Sys2Proof/Config.lean ====
section
/-! DEFINITION. The parameters of 00_scope.md R6, as one record `Params` that every operation takes as an argument,
and the values `Config.params` the machine runs with: the spec's default where it gives one, a constant WITHOUT A BODY
where the spec says OPEN (log 2). -/

namespace Sys2Proof

/-- R17: the protocol mode. -/
inductive Mode where
  | dmx
  | dmxRdm
  | rdmSniffer
  deriving DecidableEq, Repr, Inhabited

/-- R112: the actions the Scheduler's two tables hold. -/
inductive Action where
  /-- R150 -/
  | hostRx
  /-- R152 -/
  | rdmInDispatch
  /-- R151 -/
  | dmxOutPump
  /-- R153 -/
  | dmxInForward
  /-- R157 -/
  | changeOfState
  /-- R158 -/
  | rdmTimeoutCheck
  /-- R160 -/
  | heartbeat
  deriving DecidableEq, Repr, Inhabited

/-- R65: the twelve label values, a parameter record with the spec's values as defaults (label 12: conflict C8). -/
structure Labels where
  getWidgetParams : Byte := 3
  setWidgetParams : Byte := 4
  receivedDmxPacket : Byte := 5
  outputOnlySendDmxPacket : Byte := 6
  sendRdmPacket : Byte := 7
  receiveDmxOnChange : Byte := 8
  receivedDmxCos : Byte := 9
  getWidgetSn : Byte := 10
  sendRdmDiscoveryRequest : Byte := 11
  rdmTimeout : Byte := 12
  manufacturerLabel : Byte := 77
  getWidgetName : Byte := 78
  deriving DecidableEq, Repr

/-- R72: the RDM constants (PRESUMED: the spec marks every value as general knowledge, log 5). No rule tests the start
code or the two response classes 0x21 and 0x31: the classes fall under "any other command class" (R181). -/
structure RdmConstants where
  startCode : Byte := 0xCC
  subStartCode : Byte := 0x01
  getCommandResponse : Byte := 0x21
  setCommandResponse : Byte := 0x31
  discoveryCommand : Byte := 0x10
  discoveryCommandResponse : Byte := 0x11
  getCommand : Byte := 0x20
  setCommand : Byte := 0x30
  discUniqueBranch : U16 := 0x0001
  discMute : U16 := 0x0002
  discUnMute : U16 := 0x0003
  allDevicesUid : Uid := ⟨0xFF, 0xFF, 0xFF, 0xFF, 0xFF, 0xFF⟩
  /-- the device-ID part, 4 bytes -/
  allDevicesDeviceId : List Byte := [0xFF, 0xFF, 0xFF, 0xFF]
  deriving DecidableEq, Repr

/-- R6: the parameters. They are constant for one run. -/
structure Params where
  startByte : Byte
  endByte : Byte
  /-- capacity of the payload buffer, 1 to 65535 -/
  cap : Nat
  rdmTimeoutUs : U64
  /-- `DMX_SLOTS` -/
  dmxSlots : Nat
  /-- `DMX_BUF_LEN`, the start code and the slots -/
  dmxBufLen : Nat
  labels : Labels
  rdm : RdmConstants
  myUid : Uid
  serial : List Byte
  manufacturerLabelBytes : List Byte
  nameLabelBytes : List Byte
  mode : Mode
  pollTable : List Action
  /-- pairs (period in microseconds, action) -/
  eventTable : List (U64 × Action)
  periodOf : WidgetConfig → U64
  paramsValidate : List Byte → Option WidgetConfig
  paramsReply : WidgetConfig → List Byte
  configInit : WidgetConfig
  /-- request bytes, 2-byte parameter data -/
  ackEnvelope : List Byte → List Byte → List Byte
  nackOnMalformedMute : Bool
  nackResponse : List Byte → List Byte
  suppressAckOnBroadcast : Bool
  paramAccess : List Byte → Option (List Byte)
  /-- shadow buffer, current buffer; the payloads of the change-of-state frames -/
  cosEncode : List Byte → List Byte → List (List Byte)
  /-- `HEARTBEAT_ACTION` : unit → unit, which reads and writes no state and uses no port (R160) -/
  heartbeatAction : Unit → Unit

namespace Config

/-- R6: the value of `DMX_SLOTS`. -/
def dmxSlots : Nat := 512

/-- R6, R23: the value of `DMX_BUF_LEN`, the start code and 512 data slots. -/
def dmxBufLen : Nat := 513

/-- R18: `SEND_ALWAYS` (PRESUMED: general knowledge, log 6). -/
def sendAlways : Byte := 0

/-- R18: `SEND_ON_CHANGE_ONLY` (PRESUMED: general knowledge, log 6). -/
def sendOnChangeOnly : Byte := 1

/-- OPEN (R6). -/
opaque myUid : Uid
/-- OPEN (R6). -/
opaque serial : List Byte
/-- OPEN (R6); `Config.params` keeps its length within CAP. -/
opaque manufacturerLabelBytes : List Byte
/-- OPEN (R6); `Config.params` keeps its length within CAP. -/
opaque nameLabelBytes : List Byte
/-- OPEN (R6, R17). -/
opaque mode : Mode
/-- OPEN (R112): `P_DMX_IN`. -/
opaque pDmxIn : U64
/-- OPEN (R112): `P_COS`. -/
opaque pCos : U64
/-- OPEN (R112): `P_TIMEOUT`. -/
opaque pTimeout : U64
/-- OPEN (R112): `P_HEARTBEAT`. -/
opaque pHeartbeat : U64
/-- OPEN (R6, D19). -/
opaque periodOf : WidgetConfig → U64
/-- OPEN (R6, D20). -/
opaque paramsValidate : List Byte → Option WidgetConfig
/-- OPEN (R6, D21); `Config.params` keeps its length within CAP (U10). -/
opaque paramsReply : WidgetConfig → List Byte
/-- OPEN (R6, R213): the result of `config_load()`. -/
opaque configInit : WidgetConfig
/-- OPEN (R6, D31), used only when `nackOnMalformedMute` is true. -/
opaque nackResponse : List Byte → List Byte
/-- OPEN (R157, U3): the first payload of `COS_ENCODE`. -/
opaque cosEncodeFirst : List Byte → List Byte → List Byte
/-- OPEN (R157, U3): the further payloads of `COS_ENCODE`. -/
opaque cosEncodeRest : List Byte → List Byte → List (List Byte)

/-- R112: the default poll table (the spec's decision D11, log 8). -/
def pollTable : List Action := [.hostRx, .rdmInDispatch, .dmxOutPump]

/-- R112: the default event table (the spec's decision D11, log 8); the four periods are OPEN. -/
def eventTable : List (U64 × Action) :=
  [(pDmxIn, .dmxInForward), (pCos, .changeOfState), (pTimeout, .rdmTimeoutCheck), (pHeartbeat, .heartbeat)]

/-- R6: `CAP` (the spec's decision D4, log 4). -/
def cap : Nat := 600

/-- R6: the parameters the machine runs with. The contracts the spec puts on an OPEN value hold by construction:
label strings and the parameter reply of at most CAP bytes (R6, U10), at least one change-of-state payload, each of at
most CAP bytes (R157, U3): log 22. -/
def params : Params where
  startByte := 0x7E
  endByte := 0xE7
  cap := cap
  rdmTimeoutUs := 1000000
  dmxSlots := dmxSlots
  dmxBufLen := dmxBufLen
  labels := {}
  rdm := {}
  myUid := myUid
  serial := serial
  manufacturerLabelBytes := manufacturerLabelBytes.take cap
  nameLabelBytes := nameLabelBytes.take cap
  mode := mode
  pollTable := pollTable
  eventTable := eventTable
  periodOf := periodOf
  paramsValidate := paramsValidate
  paramsReply := fun c => (paramsReply c).take cap
  configInit := configInit
  ackEnvelope := fun _ parameterData => parameterData
  nackOnMalformedMute := false
  nackResponse := nackResponse
  suppressAckOnBroadcast := false
  paramAccess := fun _ => none
  cosEncode := fun shadow current =>
    (cosEncodeFirst shadow current :: cosEncodeRest shadow current).map (List.take cap)
  heartbeatAction := fun _ => ()

end Config

end Sys2Proof
end

