-- ==== Sys2Proof/Syntax.lean ====
section
/-! DEFINITION. The syntax of the block: the frame and packet values, the receive framer's registers, the fields of an
RDM packet, and `Instr`, one constructor per row of spec/opcode_table.json (30_encoding.md R82). -/

namespace Sys2Proof

/-- R13: the host-link unit, a value of one dispatch. -/
structure Frame where
  label : Byte
  payload : List Byte
  deriving DecidableEq, Repr

/-- R11: `DEC_STATE`. -/
inductive DecState where
  | hunt
  | label
  | lenLo
  | lenHi
  | payload
  | endSearch
  deriving DecidableEq, Repr

/-- R11, R12: the receive registers of the framer. -/
structure Codec where
  decState : DecState
  rxLabel : Byte
  rxLen : U16
  rxCnt : Nat
  rxBuf : List Byte
  deriving DecidableEq, Repr

/-- The event of one decoder step (40_frame_codec.md section 2). `discard` carries the info of `MalformedFrame`. -/
inductive DecEvent where
  | none
  | frame (f : Frame)
  | discard (label : Byte) (len : U16)
  deriving DecidableEq, Repr

/-- R70: the fields of a standard RDM packet except the two that select the action. `tail` is every byte from offset
24 on, as the Bus Adapter delivered it: `RdmOperands.paramData` and `RdmOperands.checksum` (Decode.lean) are read from
it, and nothing is checked about either (R166). -/
structure RdmOperands where
  startCode : Byte
  subStartCode : Byte
  messageLength : Byte
  destination : Uid
  source : Uid
  transaction : Byte
  portId : Byte
  messageCount : Byte
  subDevice : U16
  pdl : Byte
  tail : List Byte
  deriving DecidableEq, Repr

/-- R25, R70, R166: the whole decoded view of a raw packet: the selecting pair and the other fields. -/
structure RdmPacket where
  commandClass : Byte
  paramId : U16
  operands : RdmOperands
  deriving DecidableEq, Repr

/-- R25: `RdmCommand`, the source's decoded view over a raw packet, its seven fields. The checksum is none where the
packet ends before it (log 32). -/
structure RdmCommand where
  destinationUid : Uid
  sourceUid : Uid
  commandClass : Byte
  paramId : U16
  paramData : List Byte
  messageLength : Byte
  checksum : Option U16
  deriving DecidableEq, Repr

/-- R66, R130: the ten handlers a label selects among. -/
inductive HostOp where
  | getWidgetParams
  | setWidgetParams
  | outputOnlySendDmxPacket
  | sendRdmPacket
  | receiveDmxOnChange
  | getWidgetSn
  | sendRdmDiscoveryRequest
  | manufacturerLabel
  | getWidgetName
  | unknown
  deriving DecidableEq, Repr

/-- R73, R165: the eight engine actions a standard packet selects among. -/
inductive BusOp where
  | discUniqueBranch
  | discMute
  | discUnMute
  | discOther
  | getCommand
  | setCommand
  | discoveryCommandResponse
  | otherClass
  deriving DecidableEq, Repr

/-- One constructor per row of spec/opcode_table.json. -/
inductive Instr where
  -- HOSTFRAME: a host frame selected by its label (R66); the operand is the payload
  /-- label 3, R132 -/
  | getWidgetParams (payload : List Byte)
  /-- label 4, R133 -/
  | setWidgetParams (payload : List Byte)
  /-- label 6, R137 -/
  | outputOnlySendDmxPacket (payload : List Byte)
  /-- label 7, R139 -/
  | sendRdmPacket (payload : List Byte)
  /-- label 8, R138 -/
  | receiveDmxOnChange (payload : List Byte)
  /-- label 10, R134 -/
  | getWidgetSn (payload : List Byte)
  /-- label 11, R140 -/
  | sendRdmDiscoveryRequest (payload : List Byte)
  /-- label 77, R135 -/
  | manufacturerLabel (payload : List Byte)
  /-- label 78, R136 -/
  | getWidgetName (payload : List Byte)
  /-- any other label, R141 -/
  | unknown (label : Byte) (payload : List Byte)
  -- HOSTFRAME_OUT: a frame the block writes (R68)
  /-- label 3, R132 -/
  | getWidgetParamsReply
  /-- label 5 carrying DMX, R154 -/
  | receivedDmxPacketDmx
  /-- label 5 carrying the first `k` bytes of an RDM packet, R179 -/
  | receivedDmxPacketRdm (packet : List Byte) (k : Nat)
  /-- label 9 carrying one payload of COS_ENCODE, R157 -/
  | receivedDmxCos (payload : List Byte)
  /-- label 10, R134 -/
  | getWidgetSnReply
  /-- label 12, R159 -/
  | rdmTimeout
  /-- label 77, R135 -/
  | manufacturerLabelReply
  /-- label 78, R136 -/
  | getWidgetNameReply
  -- RDMPKT: a packet taken from the bus, selected by command class and parameter id (R73)
  /-- class 0x10, parameter 0x0001, R170 -/
  | discUniqueBranch (o : RdmOperands)
  /-- class 0x10, parameter 0x0002, R174 -/
  | discMute (o : RdmOperands)
  /-- class 0x10, parameter 0x0003, R173 -/
  | discUnMute (o : RdmOperands)
  /-- class 0x10, any other parameter, R177 -/
  | discOther (paramId : U16) (o : RdmOperands)
  /-- class 0x20, R178 -/
  | getCommand (paramId : U16) (o : RdmOperands)
  /-- class 0x30, R178 -/
  | setCommand (paramId : U16) (o : RdmOperands)
  /-- class 0x11, R180 -/
  | discoveryCommandResponse (paramId : U16) (o : RdmOperands)
  /-- any other class, R181 -/
  | rdmOtherClass (commandClass : Byte) (paramId : U16) (o : RdmOperands)
  -- RAWFE
  /-- first byte 0xFE, R167, R180; `rest` is every byte after it -/
  | rawDiscoveryResponse (rest : List Byte)
  -- BUSOUT: bytes the block sends on the bus
  /-- R75 -/
  | dubresp
  /-- R78; the request it acknowledges -/
  | muteack (request : List Byte)
  -- INTERNAL: selected by the Scheduler's tables or by other rules (R82)
  /-- R97 -/
  | decode
  /-- R100 -/
  | encode (label : Byte) (payload : List Byte)
  /-- R111 -/
  | schedInit
  /-- R113 -/
  | schedIteration
  /-- R114 -/
  | pollPass
  /-- R115 -/
  | eventPass
  /-- R116; an index of EVENT_TABLE -/
  | eventCheck (j : Nat)
  /-- R150 -/
  | hostRx
  /-- R152 -/
  | rdmInDispatch
  /-- R151 -/
  | dmxOutPump
  /-- R153 -/
  | dmxInForward
  /-- R157 -/
  | changeOfState
  /-- R158 -/
  | rdmTimeoutCheck
  /-- R159 -/
  | timeoutPath
  /-- R160 -/
  | heartbeat
  /-- R130 -/
  | dispatch (f : Frame)
  /-- R143 -/
  | rdmTransmit (bytes : List Byte)
  /-- R165; a raw packet -/
  | rdmEngine (packet : List Byte)
  /-- R176; the request -/
  | malformedMute (p : RdmPacket)
  deriving DecidableEq, Repr

/-- The instruction that runs a table entry (R112). -/
def Action.instr : Action → Instr
  | .hostRx => .hostRx
  | .rdmInDispatch => .rdmInDispatch
  | .dmxOutPump => .dmxOutPump
  | .dmxInForward => .dmxInForward
  | .changeOfState => .changeOfState
  | .rdmTimeoutCheck => .rdmTimeoutCheck
  | .heartbeat => .heartbeat

/-- Where the words of an instruction stand: on the host link (R60) or in a packet taken from the bus (R70, R71). -/
inductive Wire where
  | host (bytes : List Byte)
  | bus (bytes : List Byte)
  deriving DecidableEq, Repr

/-- Why bytes decode to no instruction. -/
inductive DecodeReject where
  /-- R97: no frame is complete when the bytes end (none began, or its end has not arrived) -/
  | noCompleteFrame
  /-- R96: a frame whose end marker is not found within the bound -/
  | malformedFrame (label : Byte) (len : U16)
  /-- R166: fewer than 24 bytes and no first byte 0xFE -/
  | shortRdmPacket
  deriving DecidableEq, Repr

end Sys2Proof
end

