-- ==== Sys2Proof/WellFormed.lean ====
section
/-! DEFINITION. Which terms of `Instr` stand for something the block can meet: a payload that fits the payload buffer
(R13), a catch-all row only where no row with a wider mask matches (R66, R73), a standard packet that is not a raw 0xFE
packet (R71), an index of the event table (R116). -/

namespace Sys2Proof

/-- R71: the first byte of a raw Discovery-Unique-Branch response. -/
def rawFirstByte : Byte := 0xFE

/-- R66: the nine host → widget labels that select a handler. -/
def Labels.hostLabels (l : Labels) : List Byte :=
  [l.getWidgetParams, l.setWidgetParams, l.outputOnlySendDmxPacket, l.sendRdmPacket, l.receiveDmxOnChange,
    l.getWidgetSn, l.sendRdmDiscoveryRequest, l.manufacturerLabel, l.getWidgetName]

/-- R73: the three parameter ids that select a discovery action of their own. -/
def RdmConstants.discoveryPids (r : RdmConstants) : List U16 :=
  [r.discUniqueBranch, r.discMute, r.discUnMute]

/-- R73, R181: the four classes that select an action of their own. -/
def RdmConstants.classes (r : RdmConstants) : List Byte :=
  [r.discoveryCommand, r.getCommand, r.setCommand, r.discoveryCommandResponse]

/-- R13: a payload fits the payload buffer. -/
def payloadWf (P : Params) (payload : List Byte) : Bool := decide (payload.length ≤ P.cap)

/-- R71, R167: a standard packet does not begin with the raw response's first byte. -/
def RdmOperands.wf (o : RdmOperands) : Bool := o.startCode != rawFirstByte

/-- The checks on an instruction. -/
def Instr.wf (P : Params) : Instr → Bool
  | .getWidgetParams payload => payloadWf P payload
  | .setWidgetParams payload => payloadWf P payload
  | .outputOnlySendDmxPacket payload => payloadWf P payload
  | .sendRdmPacket payload => payloadWf P payload
  | .receiveDmxOnChange payload => payloadWf P payload
  | .getWidgetSn payload => payloadWf P payload
  | .sendRdmDiscoveryRequest payload => payloadWf P payload
  | .manufacturerLabel payload => payloadWf P payload
  | .getWidgetName payload => payloadWf P payload
  | .unknown label payload => payloadWf P payload && !P.labels.hostLabels.contains label
  | .getWidgetParamsReply => true
  | .receivedDmxPacketDmx => true
  | .receivedDmxPacketRdm _ _ => true
  | .receivedDmxCos payload => payloadWf P payload
  | .getWidgetSnReply => true
  | .rdmTimeout => true
  | .manufacturerLabelReply => true
  | .getWidgetNameReply => true
  | .discUniqueBranch o => o.wf
  | .discMute o => o.wf
  | .discUnMute o => o.wf
  | .discOther paramId o => o.wf && !P.rdm.discoveryPids.contains paramId
  | .getCommand _ o => o.wf
  | .setCommand _ o => o.wf
  | .discoveryCommandResponse _ o => o.wf
  | .rdmOtherClass commandClass _ o => o.wf && !P.rdm.classes.contains commandClass
  | .rawDiscoveryResponse _ => true
  | .dubresp => true
  | .muteack _ => true
  | .decode => true
  | .encode _ _ => true
  | .schedInit => true
  | .schedIteration => true
  | .pollPass => true
  | .eventPass => true
  | .eventCheck j => decide (j < P.eventTable.length)
  | .hostRx => true
  | .rdmInDispatch => true
  | .dmxOutPump => true
  | .dmxInForward => true
  | .changeOfState => true
  | .rdmTimeoutCheck => true
  | .timeoutPath => true
  | .heartbeat => true
  | .dispatch f => payloadWf P f.payload
  | .rdmTransmit _ => true
  | .rdmEngine _ => true
  | .malformedMute _ => true

/-- What the encodings ask of the parameters: CAP from 1 to 65535 (R6), and the nine handler labels, the three
discovery parameter ids and the four command classes each distinct, so that every row of the table can be selected. -/
def Params.EncodingWf (P : Params) : Prop :=
  1 ≤ P.cap ∧ P.cap ≤ 65535 ∧ P.labels.hostLabels.Nodup ∧ P.rdm.discoveryPids.Nodup ∧ P.rdm.classes.Nodup

/-- All that the spec asks of the parameters: what the encodings ask; `DMX_BUF_LEN` is the start code and the slots, and
the two label strings fit CAP (R6); the parameter reply fits CAP (U10); `COS_ENCODE` gives at least one payload for
buffers that differ, each of at most CAP bytes (R157, U3). -/
def Params.Wf (P : Params) : Prop :=
  P.EncodingWf ∧ P.dmxBufLen = P.dmxSlots + 1
    ∧ P.manufacturerLabelBytes.length ≤ P.cap ∧ P.nameLabelBytes.length ≤ P.cap
    ∧ (∀ c, (P.paramsReply c).length ≤ P.cap)
    ∧ ∀ shadow current, (shadow ≠ current → P.cosEncode shadow current ≠ [])
      ∧ ∀ payload ∈ P.cosEncode shadow current, payload.length ≤ P.cap

end Sys2Proof
end

