-- ==== Sys2Proof/Decode.lean ====
section
/-! DEFINITION. The decoder, total on any bytes and rejecting by name, and after it the encoder (30_encoding.md,
40_frame_codec.md). The byte-serial framer of R91 to R96 stands here because it IS the host side's decoder: the machine's
`HOST_RX` runs the same `decodeBytes`. -/

namespace Sys2Proof

/-! ### Byte order and slices -/

/-- R7: `zext_16`. -/
def zext16 (b : Byte) : U16 := b.setWidth 16

/-- `n[7:0]`. -/
def loByte (n : U16) : Byte := n.setWidth 8

/-- `n[15:8]`. -/
def hiByte (n : U16) : Byte := (n >>> 8).setWidth 8

/-- R61: `zext_16(lo) | (zext_16(hi) << 8)`. -/
def word16 (lo hi : Byte) : U16 := zext16 lo ||| (zext16 hi <<< 8)

/-- R7: `s[i..i+n)`, cut at the end of `s`. -/
def slice (s : List Byte) (i n : Nat) : List Byte := (s.drop i).take n

/-- R7: `s[i]`; every rule that indexes states the bound that keeps `i` inside. -/
def byteAt (s : List Byte) (i : Nat) : Byte := s.getD i 0

/-- R44: the six bytes of a UID in bus order. -/
def Uid.bytes (u : Uid) : List Byte := [u.m0, u.m1, u.d0, u.d1, u.d2, u.d3]

/-- R70: the UID at offset `i` of a packet. -/
def uidAt (s : List Byte) (i : Nat) : Uid :=
  ⟨byteAt s i, byteAt s (i + 1), byteAt s (i + 2), byteAt s (i + 3), byteAt s (i + 4), byteAt s (i + 5)⟩

/-! ### The host frame: the byte-serial framer (40_frame_codec.md section 2) -/

/-- `min(RX_LEN, CAP)`: the number of payload bytes that are stored (R95). -/
def Codec.stored (P : Params) (c : Codec) : Nat := min c.rxLen.toNat P.cap

/-- The framer as `DEC_STATE = HUNT` with its other registers at their reset values (R211). -/
def Codec.idle (P : Params) : Codec :=
  { decState := .hunt, rxLabel := 0, rxLen := 0, rxCnt := 0, rxBuf := List.replicate P.cap 0 }

/-- R91 to R96: `dec_step`, one byte. -/
def decStep (P : Params) (c : Codec) (b : Byte) : Codec × DecEvent :=
  match c.decState with
  | .hunt => if b = P.startByte then ({ c with decState := .label }, .none) else (c, .none)
  | .label => ({ c with rxLabel := b, decState := .lenLo }, .none)
  | .lenLo => ({ c with rxLen := zext16 b, decState := .lenHi }, .none)
  | .lenHi =>
    let c' : Codec := { c with rxLen := c.rxLen ||| (zext16 b <<< 8), rxCnt := 0 }
    ({ c' with decState := if 0 < c'.stored P then .payload else .endSearch }, .none)
  | .payload =>
    let c' : Codec := { c with rxBuf := c.rxBuf.set c.rxCnt b, rxCnt := c.rxCnt + 1 }
    (if c'.rxCnt = c'.stored P then { c' with decState := .endSearch } else c', .none)
  | .endSearch =>
    if b = P.endByte then
      ({ c with decState := .hunt }, .frame { label := c.rxLabel, payload := c.rxBuf.take (c.stored P) })
    else if P.cap ≤ c.rxCnt then ({ c with decState := .hunt }, .discard c.rxLabel c.rxLen)
    else ({ c with rxCnt := c.rxCnt + 1 }, .none)

/-- What one call of the decoder leaves: the framer, the bytes it did not consume, and the event that ended it
(`none` when the bytes ran out). -/
structure DecodeResult where
  codec : Codec
  rest : List Byte
  event : DecEvent
  deriving DecidableEq, Repr

/-- R97: feed bytes to `decStep` until a frame, a discard or the end of the bytes. -/
def decodeBytes (P : Params) (c : Codec) : List Byte → DecodeResult
  | [] => { codec := c, rest := [], event := .none }
  | b :: bs =>
    match decStep P c b with
    | (c', .none) => decodeBytes P c' bs
    | (c', ev) => { codec := c', rest := bs, event := ev }

/-- R66, R130: the handler a label selects. -/
def hostOpOf (l : Labels) (label : Byte) : HostOp :=
  if label = l.getWidgetParams then .getWidgetParams
  else if label = l.setWidgetParams then .setWidgetParams
  else if label = l.outputOnlySendDmxPacket then .outputOnlySendDmxPacket
  else if label = l.sendRdmPacket then .sendRdmPacket
  else if label = l.receiveDmxOnChange then .receiveDmxOnChange
  else if label = l.getWidgetSn then .getWidgetSn
  else if label = l.sendRdmDiscoveryRequest then .sendRdmDiscoveryRequest
  else if label = l.manufacturerLabel then .manufacturerLabel
  else if label = l.getWidgetName then .getWidgetName
  else .unknown

/-- The instruction of a handler and its frame. -/
def HostOp.instr (f : Frame) : HostOp → Instr
  | .getWidgetParams => .getWidgetParams f.payload
  | .setWidgetParams => .setWidgetParams f.payload
  | .outputOnlySendDmxPacket => .outputOnlySendDmxPacket f.payload
  | .sendRdmPacket => .sendRdmPacket f.payload
  | .receiveDmxOnChange => .receiveDmxOnChange f.payload
  | .getWidgetSn => .getWidgetSn f.payload
  | .sendRdmDiscoveryRequest => .sendRdmDiscoveryRequest f.payload
  | .manufacturerLabel => .manufacturerLabel f.payload
  | .getWidgetName => .getWidgetName f.payload
  | .unknown => .unknown f.label f.payload

/-- R66: the instruction a decoded frame stands for. -/
def instrOfFrame (P : Params) (f : Frame) : Instr := (hostOpOf P.labels f.label).instr f

/-- Decode one host frame from the front of `bytes` by a framer in `HUNT`; the second part is the bytes after it. -/
def decodeHost (P : Params) (bytes : List Byte) : Except DecodeReject (Instr × List Byte) :=
  let r := decodeBytes P (Codec.idle P) bytes
  match r.event with
  | .none => .error .noCompleteFrame
  | .discard label len => .error (.malformedFrame label len)
  | .frame f => .ok (instrOfFrame P f, r.rest)

/-! ### The packet taken from the bus -/

/-- R166: a packet of fewer bytes cannot be viewed. -/
def viewLength : Nat := 24

/-- R70, R166: `VIEW(pkt)`, or none when the packet is too short. -/
def viewPacket (pkt : List Byte) : Option RdmPacket :=
  if pkt.length < viewLength then none
  else
    some
      { commandClass := byteAt pkt 20
        paramId := word16 (byteAt pkt 22) (byteAt pkt 21)
        operands :=
          { startCode := byteAt pkt 0
            subStartCode := byteAt pkt 1
            messageLength := byteAt pkt 2
            destination := uidAt pkt 3
            source := uidAt pkt 9
            transaction := byteAt pkt 15
            portId := byteAt pkt 16
            messageCount := byteAt pkt 17
            subDevice := word16 (byteAt pkt 19) (byteAt pkt 18)
            pdl := byteAt pkt 23
            tail := pkt.drop viewLength } }

/-- R166: `param_data = bytes[24 .. min(n, 24 + pdl))`. -/
def RdmOperands.paramData (o : RdmOperands) : List Byte := o.tail.take o.pdl.toNat

/-- R70: the checksum at offset `24 + pdl`, most significant byte first, or none where the packet ends before it
(log 32). It is never verified (R166). -/
def RdmOperands.checksum (o : RdmOperands) : Option U16 :=
  match o.tail.drop o.pdl.toNat with
  | [] => none
  | [_] => none
  | hi :: lo :: _ => some (word16 lo hi)

/-- R25, R70: the source's view of a packet. -/
def RdmPacket.command (v : RdmPacket) : RdmCommand :=
  { destinationUid := v.operands.destination
    sourceUid := v.operands.source
    commandClass := v.commandClass
    paramId := v.paramId
    paramData := v.operands.paramData
    messageLength := v.operands.messageLength
    checksum := v.operands.checksum }

/-- R25, R166: the `RdmCommand` of a raw packet, or none when the packet is too short to view. -/
def viewCommand (pkt : List Byte) : Option RdmCommand := (viewPacket pkt).map RdmPacket.command

/-- R73, R165: the action the class and, for the discovery class, the parameter id select. -/
def busOpOf (r : RdmConstants) (commandClass : Byte) (paramId : U16) : BusOp :=
  if commandClass = r.discoveryCommand then
    if paramId = r.discUniqueBranch then .discUniqueBranch
    else if paramId = r.discUnMute then .discUnMute
    else if paramId = r.discMute then .discMute
    else .discOther
  else if commandClass = r.getCommand then .getCommand
  else if commandClass = r.setCommand then .setCommand
  else if commandClass = r.discoveryCommandResponse then .discoveryCommandResponse
  else .otherClass

/-- The instruction of an engine action and its packet. -/
def BusOp.instr (v : RdmPacket) : BusOp → Instr
  | .discUniqueBranch => .discUniqueBranch v.operands
  | .discMute => .discMute v.operands
  | .discUnMute => .discUnMute v.operands
  | .discOther => .discOther v.paramId v.operands
  | .getCommand => .getCommand v.paramId v.operands
  | .setCommand => .setCommand v.paramId v.operands
  | .discoveryCommandResponse => .discoveryCommandResponse v.paramId v.operands
  | .otherClass => .rdmOtherClass v.commandClass v.paramId v.operands

/-- R73: the instruction a viewed packet stands for. -/
def instrOfPacket (P : Params) (v : RdmPacket) : Instr := (busOpOf P.rdm v.commandClass v.paramId).instr v

/-- R71, R167: the packet begins with 0xFE. -/
def isRawResponse (pkt : List Byte) : Bool := pkt.head? == some rawFirstByte

/-- R73: decode a packet: the raw test first, then the view (the addressing test of R168 depends on the device's own
identity and is the engine's, not the encoding's). -/
def decodePacket (P : Params) (pkt : List Byte) : Except DecodeReject Instr :=
  if isRawResponse pkt then .ok (.rawDiscoveryResponse pkt.tail)
  else
    match viewPacket pkt with
    | none => .error .shortRdmPacket
    | some v => .ok (instrOfPacket P v)

/-- The decoder: total on any bytes of either port. -/
def decode (P : Params) : Wire → Except DecodeReject Instr
  | .host bytes => (decodeHost P bytes).map Prod.fst
  | .bus pkt => decodePacket P pkt

/-! ### The encoder -/

/-- R100, R101: `ENCODE(label, payload)`. -/
def encodeFrame (P : Params) (label : Byte) (payload : List Byte) : List Byte :=
  let n := min payload.length P.cap
  [P.startByte, label, loByte (BitVec.ofNat 16 n), hiByte (BitVec.ofNat 16 n)] ++ payload.take n ++ [P.endByte]

/-- R70: the bytes of a packet. -/
def RdmPacket.bytes (v : RdmPacket) : List Byte :=
  let o := v.operands
  [o.startCode, o.subStartCode, o.messageLength] ++ o.destination.bytes ++ o.source.bytes
    ++ [o.transaction, o.portId, o.messageCount, hiByte o.subDevice, loByte o.subDevice,
      v.commandClass, hiByte v.paramId, loByte v.paramId, o.pdl] ++ o.tail

/-- The packet of a class, a parameter id and the other fields. -/
def RdmOperands.packet (o : RdmOperands) (commandClass : Byte) (paramId : U16) : RdmPacket :=
  { commandClass, paramId, operands := o }

/-- R70: the additive 16-bit checksum over a packet's bytes. The block never verifies it (R166). -/
def rdmChecksum (bytes : List Byte) : U16 := (bytes.map zext16).foldl (· + ·) 0

/-- R81: `RDM(dest, src, tn, port, cc, pid, pd)`, the standard packet with correct message length and checksum. -/
def standardPacket (r : RdmConstants) (dest src : Uid) (tn port : Byte) (cc : Byte) (pid : U16) (pd : List Byte) :
    List Byte :=
  let body : List Byte := RdmPacket.bytes
    { commandClass := cc
      paramId := pid
      operands :=
        { startCode := r.startCode
          subStartCode := r.subStartCode
          messageLength := BitVec.ofNat 8 (viewLength + pd.length)
          destination := dest
          source := src
          transaction := tn
          portId := port
          messageCount := 0
          subDevice := 0
          pdl := BitVec.ofNat 8 pd.length
          tail := pd } }
  body ++ [hiByte (rdmChecksum body), loByte (rdmChecksum body)]

/-- R78: the response packet that a standard-conforming `ACK_ENVELOPE` builds around the control field (general
knowledge); NOT the default, which sends the two bytes alone. -/
def standardAckEnvelope (r : RdmConstants) (myUid : Uid) (request parameterData : List Byte) : List Byte :=
  match viewPacket request with
  | none => parameterData
  | some v => standardPacket r v.operands.source myUid v.operands.transaction 0 r.discoveryCommandResponse v.paramId
      parameterData

/-- The words of an instruction, and the port they stand on. Only the rows of format HOSTFRAME, RDMPKT and RAWFE have
words that select them (R82): the frames and bus bytes the block WRITES and the INTERNAL rows have none. -/
def encode (P : Params) : Instr → Option Wire
  | .getWidgetParams payload => some (.host (encodeFrame P P.labels.getWidgetParams payload))
  | .setWidgetParams payload => some (.host (encodeFrame P P.labels.setWidgetParams payload))
  | .outputOnlySendDmxPacket payload => some (.host (encodeFrame P P.labels.outputOnlySendDmxPacket payload))
  | .sendRdmPacket payload => some (.host (encodeFrame P P.labels.sendRdmPacket payload))
  | .receiveDmxOnChange payload => some (.host (encodeFrame P P.labels.receiveDmxOnChange payload))
  | .getWidgetSn payload => some (.host (encodeFrame P P.labels.getWidgetSn payload))
  | .sendRdmDiscoveryRequest payload => some (.host (encodeFrame P P.labels.sendRdmDiscoveryRequest payload))
  | .manufacturerLabel payload => some (.host (encodeFrame P P.labels.manufacturerLabel payload))
  | .getWidgetName payload => some (.host (encodeFrame P P.labels.getWidgetName payload))
  | .unknown label payload => some (.host (encodeFrame P label payload))
  | .getWidgetParamsReply => none
  | .receivedDmxPacketDmx => none
  | .receivedDmxPacketRdm _ _ => none
  | .receivedDmxCos _ => none
  | .getWidgetSnReply => none
  | .rdmTimeout => none
  | .manufacturerLabelReply => none
  | .getWidgetNameReply => none
  | .discUniqueBranch o => some (.bus (o.packet P.rdm.discoveryCommand P.rdm.discUniqueBranch).bytes)
  | .discMute o => some (.bus (o.packet P.rdm.discoveryCommand P.rdm.discMute).bytes)
  | .discUnMute o => some (.bus (o.packet P.rdm.discoveryCommand P.rdm.discUnMute).bytes)
  | .discOther paramId o => some (.bus (o.packet P.rdm.discoveryCommand paramId).bytes)
  | .getCommand paramId o => some (.bus (o.packet P.rdm.getCommand paramId).bytes)
  | .setCommand paramId o => some (.bus (o.packet P.rdm.setCommand paramId).bytes)
  | .discoveryCommandResponse paramId o => some (.bus (o.packet P.rdm.discoveryCommandResponse paramId).bytes)
  | .rdmOtherClass commandClass paramId o => some (.bus (o.packet commandClass paramId).bytes)
  | .rawDiscoveryResponse rest => some (.bus (rawFirstByte :: rest))
  | .dubresp => none
  | .muteack _ => none
  | .decode => none
  | .encode _ _ => none
  | .schedInit => none
  | .schedIteration => none
  | .pollPass => none
  | .eventPass => none
  | .eventCheck _ => none
  | .hostRx => none
  | .rdmInDispatch => none
  | .dmxOutPump => none
  | .dmxInForward => none
  | .changeOfState => none
  | .rdmTimeoutCheck => none
  | .timeoutPath => none
  | .heartbeat => none
  | .dispatch _ => none
  | .rdmTransmit _ => none
  | .rdmEngine _ => none
  | .malformedMute _ => none

/-! ### The opcode table's words -/

/-- The bytes on the host link of an 8-bit table word: a frame with that label, no payload (operand bytes of zeros:
length 0), and the two markers that make it a frame (R60). -/
def tableFrame (w : Nat) : List Byte := encodeFrame Config.params (BitVec.ofNat 8 w) []

/-- The packet of a 24-bit table word `(command_class << 16) | param_id` (R73): packet bytes 20, 21 and 22 hold it, most
significant byte first, and the destination is the all-devices UID, which the selection needs (R168); every other byte
up to offset 36, the longest packet any rule reads (R170), is zero. -/
def tablePacket (w : Nat) : List Byte :=
  List.replicate 3 0 ++ Config.params.rdm.allDevicesUid.bytes ++ List.replicate 11 0
    ++ [BitVec.ofNat 8 (w / 65536), BitVec.ofNat 8 (w / 256), BitVec.ofNat 8 w] ++ List.replicate 13 0

/-- What an `nbits`-bit table word `w` is laid out as. An 8-bit word is the LABEL byte of a host frame, but for the one
8-bit word of format RAWFE, 0xFE, which is the first byte of a bus packet; a 24-bit word is a bus packet (log 19). -/
def tableWire (nbits w : Nat) : Option Wire :=
  if nbits = 8 then
    if w = rawFirstByte.toNat then some (.bus [rawFirstByte]) else some (.host (tableFrame w))
  else if nbits = 24 then some (.bus (tablePacket w))
  else none

/-- The instruction the decoder reads from a table word. -/
def decodeTableWord (nbits w : Nat) : Option Instr :=
  match tableWire nbits w with
  | none => none
  | some wire =>
    match decode Config.params wire with
    | .ok i => some i
    | .error _ => none

end Sys2Proof
end

