-- ==== Sys2Proof/Machine/State.lean ====
section
/-! DEFINITION. The state of the block (10_state.md) and of the environment it observes (R27), as plain data; the five
conditions (60_exceptions.md R190); reset (70_reset_and_hazards.md R211). -/

namespace Sys2Proof.Machine

/-- R16: the phase of the sequencer. -/
inductive Phase where
  | init
  | poll
  | event
  deriving DecidableEq, Repr

/-- R16: the sequencer position, `pc = (phase, index)`. -/
structure Pc where
  phase : Phase
  index : Nat
  deriving DecidableEq, Repr

/-- R19: a direction of the DMX/RDM bus. -/
inductive Direction where
  | input
  | output
  deriving DecidableEq, Repr

/-- R27, R204: an entry of `BUS_LOG`. -/
inductive BusEvent where
  | send (bytes : List Byte)
  | dir (d : Direction) (force : Bool)
  deriving DecidableEq, Repr

/-- R190: the five conditions, each with its info. -/
inductive Condition where
  /-- `EC_A`: RX_LABEL, RX_LEN -/
  | malformedFrame (label : Byte) (len : U16)
  /-- `EC_B`: param_id, pdl -/
  | malformedRdmRequest (paramId : U16) (pdl : Byte)
  /-- `EC_C`: destination UID -/
  | addressMismatch (destination : Uid)
  /-- `EC_D` -/
  | rdmResponseTimeout
  /-- `EC_E`: the label -/
  | unknownLabel (label : Byte)
  deriving DecidableEq, Repr

/-- R190: the codes. -/
inductive ConditionCode where
  | ecA
  | ecB
  | ecC
  | ecD
  | ecE
  deriving DecidableEq, Repr

/-- Everything the spec gives the machine. The last two fields are the MODEL's own (logs 12 and 13). -/
structure State where
  /-- R11, R12: DEC_STATE, RX_LABEL, RX_LEN, RX_CNT, RX_BUF -/
  codec : Codec
  /-- R14: SCHED_STARTED -/
  schedStarted : Bool
  /-- R14: LAST_FIRE[j], one for each entry of EVENT_TABLE -/
  lastFire : List U64
  /-- R15: NOW_E -/
  nowE : U64
  /-- R16 -/
  pc : Pc
  /-- R17 -/
  mode : Mode
  /-- R18: a whole byte -/
  receivePolicy : Byte
  /-- R19 -/
  portDirection : Direction
  /-- R20 -/
  outputOnly : Bool
  /-- R20 -/
  outputPeriodUs : U64
  /-- R20 -/
  outputElapsedUs : U64
  /-- R20: 0 to 513 -/
  outputLength : Nat
  /-- R21 -/
  config : WidgetConfig
  /-- R22 -/
  rdmDiscoveryRunning : Bool
  /-- R22 -/
  rdmIsMuted : Bool
  /-- R22: pending_rdm_response_deadline; none is disarmed -/
  deadline : Option U64
  /-- R23: DMX_BUF, 513 bytes -/
  dmxBuf : List Byte
  /-- R24: COS_SHADOW, 513 bytes -/
  cosShadow : List Byte
  /-- R27: HOST_RX, head first -/
  hostRx : List Byte
  /-- R27: HOST_TX, oldest first -/
  hostTx : List Byte
  /-- R27: BUS_RDM -/
  busRdm : Option (List Byte)
  /-- R27: BUS_DMX_FRESH -/
  busDmxFresh : Bool
  /-- R27: BUS_LOG, oldest first -/
  busLog : List BusEvent
  /-- R27: CLOCK -/
  clock : U64
  /-- the model's own record of the config_store transactions (R204), oldest first -/
  configLog : List WidgetConfig
  /-- the model's own record of the conditions raised (R190: the block records them nowhere), oldest first -/
  trace : List Condition
  deriving DecidableEq, Repr

/-- What stops the machine. No rule of the spec stops it (R79, R199); both are safe and neither happens in a run. -/
inductive Fault where
  /-- raised by a step whose `pc` lies in no table: R16 says it never leaves them. SAFE: the model stops where the block
  cannot be -/
  | pcOutsideTables (pc : Pc)
  /-- raised by EVENT_CHECK of an index that EVENT_TABLE does not have. SAFE: R116 gives such a check no effect -/
  | noSuchEvent (j : Nat)
  deriving DecidableEq, Repr

/-- What the model refuses to run. -/
inductive Refusal where
  /-- raised by an arm of `exec` whose instruction has no meaning yet; no arm is left so. SAFE -/
  | notModelled (mnemonic : String)
  deriving DecidableEq, Repr

/-- The outcome of a meaning or a step. -/
abbrev Out := Host.Outcome State Fault Refusal

/-- R40: the three buffers, each with the length the spec gives it: the canonical form of the block's storage. -/
abbrev Memory.wf (P : Params) (s : State) : Prop :=
  s.codec.rxBuf.length = P.cap ∧ s.dmxBuf.length = P.dmxBufLen ∧ s.cosShadow.length = P.dmxBufLen

/-- R211: the state after reset, for any parameters. `lastFire` and `nowE` are unspecified there (log 10); `hostRx`,
`busRdm`, `busDmxFresh` and `clock` are whatever the environment holds (R214, log 11). -/
def State.resetWith (P : Params) : State where
  codec := Codec.idle P
  schedStarted := false
  lastFire := List.replicate P.eventTable.length 0
  nowE := 0
  pc := ⟨.init, 0⟩
  mode := P.mode
  receivePolicy := Config.sendAlways
  portDirection := .input
  outputOnly := false
  outputPeriodUs := P.periodOf P.configInit
  outputElapsedUs := 0
  outputLength := 0
  config := P.configInit
  rdmDiscoveryRunning := false
  rdmIsMuted := false
  deadline := none
  dmxBuf := List.replicate P.dmxBufLen 0
  cosShadow := List.replicate P.dmxBufLen 0
  hostRx := []
  hostTx := []
  busRdm := none
  busDmxFresh := false
  busLog := []
  clock := 0
  configLog := []
  trace := []

/-- R211: the state after reset. -/
def State.reset : State := State.resetWith Config.params

end Sys2Proof.Machine
end

