-- ==== Sys2Proof/Machine/Ops.lean ====
section
/-! DEFINITION. The named operations over state: the ports of 60_exceptions.md R204, the buffer access of 00_scope.md R8,
the one operation that raises a condition, and `emit`. -/

namespace Sys2Proof.Machine

/-! ### Buffers (R8) -/

/-- R8: `MemRead(B + i, n)`. -/
def memRead (buf : List Byte) (i n : Nat) : List Byte := slice buf i n

/-- The bytes `v` laid over the front of `buf`, cut at its end. -/
def overlay : List Byte → List Byte → List Byte
  | [], _ => []
  | b :: bs, [] => b :: bs
  | _ :: bs, v :: vs => v :: overlay bs vs

/-- R8: `MemWrite(B + i, n, v)`; the length of the buffer never changes. -/
def memWrite (buf : List Byte) (i : Nat) (v : List Byte) : List Byte := buf.take i ++ overlay (buf.drop i) v

/-! ### Conditions (R190, R199, R200) -/

/-- R190: the code of a condition. -/
def Condition.code : Condition → ConditionCode
  | .malformedFrame _ _ => .ecA
  | .malformedRdmRequest _ _ => .ecB
  | .addressMismatch _ => .ecC
  | .rdmResponseTimeout => .ecD
  | .unknownLabel _ => .ecE

/-- R8, R190, R199: `raise`, the block's whole trap entry. It saves nothing, latches nothing, changes no mode and
transfers no control; the model's trace is the only thing it writes. There is no operation that returns from it: R200,
"There is no return operation because nothing was entered". -/
def raise (c : Condition) (s : State) : State := { s with trace := s.trace ++ [c] }

/-! ### Ports (R204) -/

/-- `clock_now()`. -/
def clockNow (s : State) : U64 := s.clock

/-- `host_tx(bytes)`: never waits, never fails (R53). -/
def hostSend (bytes : List Byte) (s : State) : State := { s with hostTx := s.hostTx ++ bytes }

/-- `bus_send(bytes)`. -/
def busSend (bytes : List Byte) (s : State) : State := { s with busLog := s.busLog ++ [.send bytes] }

/-- `bus_set_direction(d, force)`, and the block's record of the direction that every rule pairs with it (R19). -/
def setDirection (d : Direction) (force : Bool) (s : State) : State :=
  { s with busLog := s.busLog ++ [.dir d force], portDirection := d }

/-- `bus_rdm_take()`: what it leaves; the packet it returns is `s.busRdm`. -/
def busRdmTake (s : State) : State := { s with busRdm := none }

/-- `bus_dmx_consume()`. -/
def busDmxConsume (s : State) : State := { s with busDmxFresh := false }

/-- `config_store(c)`. -/
def configStore (c : WidgetConfig) (s : State) : State := { s with configLog := s.configLog ++ [c] }

/-- R8, R100: `emit(label, payload) = host_tx(ENCODE(label, payload))`. -/
def emit (P : Params) (label : Byte) (payload : List Byte) (s : State) : State :=
  hostSend (encodeFrame P label payload) s

/-! ### The sequencer (R16, R113) -/

/-- `pc <- p`. -/
def setPc (p : Pc) (s : State) : State := { s with pc := p }

/-! ### Handing the framer over (R97) -/

/-- R97: the framer and the bytes left in `HOST_RX` after a decoder call. -/
def takeDecoded (r : DecodeResult) (s : State) : State := { s with codec := r.codec, hostRx := r.rest }

end Sys2Proof.Machine
end

