-- ==== Sys2Proof/Machine/Operands.lean ====
section
/-! DEFINITION. What the rules read from a frame's payload, a packet, a UID and the buffers: UID order and addressing
(R44, R168, R171), the Discovery-Unique-Branch bounds and response (R74 to R77), the payloads of the frames the block
writes (R68, R154, R179), the changed slots (R157). -/

namespace Sys2Proof.Machine

/-! ### UIDs -/

/-- R44: lexicographic `<=` on byte sequences, bytes as unsigned numbers. -/
def lexLe : List Byte → List Byte → Bool
  | [], _ => true
  | _ :: _, [] => false
  | x :: xs, y :: ys => if x = y then lexLe xs ys else decide (x.toNat < y.toNat)

/-- R44: the order on UIDs. -/
def uidLe (a b : Uid) : Bool := lexLe a.bytes b.bytes

/-- R171: `IN_RANGE(lower, upper)`, both ends inclusive. -/
def inRange (P : Params) (lower upper : Uid) : Bool := uidLe lower P.myUid && uidLe P.myUid upper

/-- R168: the manufacturer part `d[0..2)`. -/
def manufacturerId (u : Uid) : List Byte := slice u.bytes 0 2

/-- R168: the device part `d[2..6)`. -/
def deviceId (u : Uid) : List Byte := slice u.bytes 2 4

/-- R168. -/
def isBroadcast (P : Params) (d : Uid) : Bool := decide (d = P.rdm.allDevicesUid)

/-- R168. -/
def isVendorcast (P : Params) (d : Uid) : Bool :=
  decide (manufacturerId d = manufacturerId P.myUid) && decide (deviceId d = P.rdm.allDevicesDeviceId)

/-- R168. -/
def isUnicast (P : Params) (d : Uid) : Bool := decide (d = P.myUid)

/-- R168: `is_for_me`. -/
def isForMe (P : Params) (d : Uid) : Bool := isVendorcast P d || isUnicast P d

/-- R168: `ADDRESSED(v)`. -/
def addressed (P : Params) (v : RdmPacket) : Bool :=
  isBroadcast P v.operands.destination || isForMe P v.operands.destination

/-! ### The Discovery-Unique-Branch request and response -/

/-- R170: a request shorter than this does not hold both bounds. -/
def dubRequestLength : Nat := 36

/-- R74, R170: the lower bound, packet bytes 24 to 29. -/
def lowerBound (pkt : List Byte) : Uid := uidAt pkt 24

/-- R74, R170: the upper bound, packet bytes 30 to 35. -/
def upperBound (pkt : List Byte) : Uid := uidAt pkt 30

/-- R76: a byte is sent as two masked bytes. -/
def maskPair (b : Byte) : List Byte := [b ||| 0xAA, b ||| 0x55]

/-- R76: what a receiver recovers from a pair. -/
def unmask (first second : Byte) : Byte := (first &&& 0x55) ||| (second &&& 0xAA)

/-- R77: `CS`, the 16-bit sum of the six UID bytes over the base 6 × 0xFF. -/
def dubChecksum (u : Uid) : U16 := (u.bytes.map zext16).foldl (· + ·) (6 * zext16 0xFF)

/-- R75: `DUBRESP(uid)`, 24 bytes. -/
def dubResponse (u : Uid) : List Byte :=
  List.replicate 7 0xFE ++ [0xAA] ++ u.bytes.flatMap maskPair
    ++ maskPair (hiByte (dubChecksum u)) ++ maskPair (loByte (dubChecksum u))

/-! ### Mute requests -/

/-- R78: the control field of a mute acknowledgment. -/
def controlField : List Byte := [0x00, 0x00]

/-! ### Label 7 -/

/-- R67, R139: the offset of the command class in a label-7 payload (PRESUMED: general knowledge, log 5). -/
def commandClassOffset : Nat := 20

/-- R139: the payload holds a command class and it is the discovery class. -/
def isDiscoveryPayload (P : Params) (payload : List Byte) : Bool :=
  decide (commandClassOffset < payload.length ∧ byteAt payload commandClassOffset = P.rdm.discoveryCommand)

/-! ### Label 6 -/

/-- R137: `n = min(L, DMX_BUF_LEN)`. -/
def outputCount (P : Params) (payload : List Byte) : Nat := min payload.length P.dmxBufLen

/-- R137: `DMX_BUF` after `for i in 1 .. n-1: DMX_BUF[i] <- payload[i]`. -/
def copySlots (P : Params) (dmxBuf payload : List Byte) : List Byte :=
  memWrite dmxBuf 1 (slice payload 1 (outputCount P payload - 1))

/-! ### Frames the block writes -/

/-- R154: `DMX_FORWARD_PAYLOAD()`. -/
def dmxForwardPayload (P : Params) (dmxBuf : List Byte) : List Byte := [0x00, 0x00] ++ memRead dmxBuf 1 P.dmxSlots

/-- R179: receive-status byte 0 and the first `min(n, k)` bytes of the packet. -/
def rdmForwardPayload (pkt : List Byte) (k : Nat) : List Byte := [0x00] ++ pkt.take (min pkt.length k)

/-- R179: `message_length + 2`, the packet through its two checksum bytes. -/
def forwardLength (v : RdmPacket) : Nat := v.operands.messageLength.toNat + 2

/-- R157: the slots `k`, `0 <= k <= 512`, whose byte differs. -/
def changedSlots (P : Params) (dmxBuf cosShadow : List Byte) : List Nat :=
  (List.range P.dmxBufLen).filter fun k => byteAt dmxBuf k != byteAt cosShadow k

end Sys2Proof.Machine
end

