-- ==== Sys2Proof/Machine/Flags.lean ====
section
/-! DEFINITION. The block's flags (10_state.md R30): who writes each, the guards that read them (43_reactions.md), and
the three time comparisons, complete (60_exceptions.md R203). No flag is a side effect of arithmetic. -/

namespace Sys2Proof.Machine

/-! ### Writers -/

/-- R131: `CLEAR_OUTPUT_ONLY`. -/
def clearOutputOnly (s : State) : State := { s with outputOnly := false }

/-- R137: `output_only <- true`. -/
def setOutputOnly (s : State) : State := { s with outputOnly := true }

/-- R139, R140. -/
def setDiscoveryRunning (b : Bool) (s : State) : State := { s with rdmDiscoveryRunning := b }

/-- R173, R174. -/
def setMuted (b : Bool) (s : State) : State := { s with rdmIsMuted := b }

/-- R143: `pending_rdm_response_deadline <- some(clock_now())`. -/
def armDeadline (s : State) : State := { s with deadline := some (clockNow s) }

/-- R159, R181: `pending_rdm_response_deadline <- none`. -/
def disarmDeadline (s : State) : State := { s with deadline := none }

/-! ### Time comparisons (R203): unsigned, sums and differences modulo 2^64 (R118) -/

/-- R116: `NOW_E >= LAST_FIRE[j] + period`. -/
def eventDue (now lastFire period : U64) : Bool := decide ((lastFire + period).toNat ≤ now.toNat)

/-- R151: `now >= output_elapsed_us + output_period_us`. -/
def pumpDue (now elapsed period : U64) : Bool := decide ((elapsed + period).toNat ≤ now.toNat)

/-- R158: the deadline is armed and `NOW_E - t > RDM_TIMEOUT_US`, strictly. -/
def timedOut (P : Params) (now : U64) : Option U64 → Bool
  | none => false
  | some t => decide (P.rdmTimeoutUs.toNat < (now - t).toNat)

/-! ### Guards -/

/-- R152. -/
def rdmInGuard (s : State) : Bool := s.mode != .rdmSniffer && s.receivePolicy != Config.sendOnChangeOnly

/-- R153, R157: what the two DMX-input reactions test besides the policy. -/
def dmxInputOpen (s : State) : Bool :=
  s.mode != .rdmSniffer && s.rdmDiscoveryRunning == false && s.portDirection == .input

/-- R153. -/
def dmxInForwardGuard (s : State) : Bool :=
  dmxInputOpen s && s.receivePolicy == Config.sendAlways && s.busDmxFresh

/-- R157. -/
def changeOfStateGuard (s : State) : Bool :=
  dmxInputOpen s && s.receivePolicy == Config.sendOnChangeOnly && s.busDmxFresh

end Sys2Proof.Machine
end

