-- ==== Sys2Proof/Machine/Codec.lean ====
section
/-! DEFINITION. The Frame Codec's two rows: DECODE (40_frame_codec.md R97) and ENCODE (R100). -/

namespace Sys2Proof.Machine

/-- R97: `DECODE_CALL`, its result and what it leaves. A discard raises `MalformedFrame` (R96, R191). -/
def decodeCall (P : Params) (s : State) : Option Frame × State :=
  let r := decodeBytes P s.codec s.hostRx
  match r.event with
  | .none => (none, takeDecoded r s)
  | .frame f => (some f, takeDecoded r s)
  | .discard label len => (none, raise (.malformedFrame label len) (takeDecoded r s))

/-- DECODE, R97. Its result, `some(Frame)` or `none`, is a value handed to its caller, not state (R13):
`(decodeCall Config.params s).1` (log 17). -/
def execDecode (s : State) : Out := .next (decodeCall Config.params s).2

/-- ENCODE, R100: its side effect is the writing to the host stream. -/
def execEncode (label : Byte) (payload : List Byte) (s : State) : Out := .next (emit Config.params label payload s)

end Sys2Proof.Machine
end

