-- ==== Sys2Proof/Machine/HostOut.lean ====
section
/-! DEFINITION. The eight frames the block writes to the host (rows of format HOSTFRAME_OUT, 30_encoding.md R68) and
TIMEOUT_PATH, which writes one of them (43_reactions.md R159). -/

namespace Sys2Proof.Machine

/-- R132: label 3, `PARAMS_REPLY(config)`. -/
def getWidgetParamsReply (P : Params) (s : State) : State :=
  emit P P.labels.getWidgetParams (P.paramsReply s.config) s

/-- R153, R154: label 5, two zero bytes and the 512 slots. -/
def receivedDmxPacketDmx (P : Params) (s : State) : State :=
  emit P P.labels.receivedDmxPacket (dmxForwardPayload P s.dmxBuf) s

/-- R179: `FORWARD(pkt, k)`, label 5. -/
def receivedDmxPacketRdm (P : Params) (pkt : List Byte) (k : Nat) (s : State) : State :=
  emit P P.labels.receivedDmxPacket (rdmForwardPayload pkt k) s

/-- R157: label 9, one payload of COS_ENCODE. -/
def receivedDmxCos (P : Params) (payload : List Byte) (s : State) : State :=
  emit P P.labels.receivedDmxCos payload s

/-- R134: label 10, `SERIAL`. -/
def getWidgetSnReply (P : Params) (s : State) : State := emit P P.labels.getWidgetSn P.serial s

/-- R159: label 12, no payload (D14). -/
def rdmTimeout (P : Params) (s : State) : State := emit P P.labels.rdmTimeout [] s

/-- R135: label 77. -/
def manufacturerLabelReply (P : Params) (s : State) : State :=
  emit P P.labels.manufacturerLabel P.manufacturerLabelBytes s

/-- R136: label 78. -/
def getWidgetNameReply (P : Params) (s : State) : State := emit P P.labels.getWidgetName P.nameLabelBytes s

/-- R159: `TIMEOUT_PATH`. -/
def timeoutPath (P : Params) (s : State) : State :=
  disarmDeadline (rdmTimeout P (raise .rdmResponseTimeout s))

/-- GET_WIDGET_PARAMS_REPLY, R132. -/
def execGetWidgetParamsReply (s : State) : Out := .next (getWidgetParamsReply Config.params s)

/-- RECEIVED_DMX_PACKET_DMX, R154. -/
def execReceivedDmxPacketDmx (s : State) : Out := .next (receivedDmxPacketDmx Config.params s)

/-- RECEIVED_DMX_PACKET_RDM, R179. -/
def execReceivedDmxPacketRdm (packet : List Byte) (k : Nat) (s : State) : Out :=
  .next (receivedDmxPacketRdm Config.params packet k s)

/-- RECEIVED_DMX_COS, R157. -/
def execReceivedDmxCos (payload : List Byte) (s : State) : Out := .next (receivedDmxCos Config.params payload s)

/-- GET_WIDGET_SN_REPLY, R134. -/
def execGetWidgetSnReply (s : State) : Out := .next (getWidgetSnReply Config.params s)

/-- RDM_TIMEOUT, R159. -/
def execRdmTimeout (s : State) : Out := .next (rdmTimeout Config.params s)

/-- MANUFACTURER_LABEL_REPLY, R135. -/
def execManufacturerLabelReply (s : State) : Out := .next (manufacturerLabelReply Config.params s)

/-- GET_WIDGET_NAME_REPLY, R136. -/
def execGetWidgetNameReply (s : State) : Out := .next (getWidgetNameReply Config.params s)

/-- TIMEOUT_PATH, R159. -/
def execTimeoutPath (s : State) : Out := .next (timeoutPath Config.params s)

end Sys2Proof.Machine
end

