-- ==== Sys2Proof/Machine/HostCommands.lean ====
section
/-! DEFINITION. The host commands (42_host_commands.md): the ten handlers, RDM_TRANSMIT and DISPATCH, each with its
effects in the order its rule lists them (D16). -/

namespace Sys2Proof.Machine

/-- R132, label 3. The payload is not read. -/
def getWidgetParams (P : Params) (s : State) : State := getWidgetParamsReply P s

/-- R133: what an accepted `SET_WIDGET_PARAMS` stores. -/
def storeConfig (P : Params) (c : WidgetConfig) (s : State) : State :=
  let s1 := { s with config := c }
  let s2 := configStore c s1
  { s2 with outputPeriodUs := P.periodOf c }

/-- R133, label 4. A rejected request stores nothing; the direction is forced either way. -/
def setWidgetParams (P : Params) (payload : List Byte) (s : State) : State :=
  let s1 := clearOutputOnly s
  let s2 :=
    match P.paramsValidate payload with
    | some c => storeConfig P c s1
    | none => s1
  setDirection .input true s2

/-- R134, label 10. -/
def getWidgetSn (P : Params) (s : State) : State :=
  setDirection .input true (getWidgetSnReply P (clearOutputOnly s))

/-- R135, label 77. -/
def manufacturerLabel (P : Params) (s : State) : State :=
  setDirection .input true (manufacturerLabelReply P (clearOutputOnly s))

/-- R136, label 78. -/
def getWidgetName (P : Params) (s : State) : State :=
  setDirection .input true (getWidgetNameReply P (clearOutputOnly s))

/-- R137: the slots copied, the clock sample and the length recorded. -/
def recordOutput (P : Params) (payload : List Byte) (s : State) : State :=
  { s with
    dmxBuf := copySlots P s.dmxBuf payload
    outputElapsedUs := clockNow s
    outputLength := outputCount P payload }

/-- R137, label 6. Nothing is sent here: the pump sends. -/
def outputOnlySendDmxPacket (P : Params) (payload : List Byte) (s : State) : State :=
  setOutputOnly (setDirection .output true (recordOutput P payload s))

/-- R138: `if L >= 1: receive_policy <- payload[0]`, the whole byte. -/
def setReceivePolicy (payload : List Byte) (s : State) : State :=
  match payload with
  | [] => s
  | b :: _ => { s with receivePolicy := b }

/-- R138: both buffers zeroed. -/
def zeroBuffers (P : Params) (s : State) : State :=
  { s with
    dmxBuf := List.replicate P.dmxBufLen 0
    cosShadow := List.replicate P.dmxBufLen 0 }

/-- R138, label 8. -/
def receiveDmxOnChange (P : Params) (payload : List Byte) (s : State) : State :=
  let s1 := setDirection .input false (clearOutputOnly s)
  let s2 := zeroBuffers P (setReceivePolicy payload s1)
  setDirection .input true s2

/-- R143: `RDM_TRANSMIT(bytes)`; the clock is sampled after the transmission. -/
def rdmTransmit (bytes : List Byte) (s : State) : State :=
  armDeadline (setDirection .input true (busSend bytes (setDirection .output true s)))

/-- R139, label 7. -/
def sendRdmPacket (P : Params) (payload : List Byte) (s : State) : State :=
  rdmTransmit payload (setDiscoveryRunning (isDiscoveryPayload P payload) (clearOutputOnly s))

/-- R140, label 11. -/
def sendRdmDiscoveryRequest (payload : List Byte) (s : State) : State :=
  rdmTransmit payload (setDiscoveryRunning true (clearOutputOnly s))

/-- R141, any other label: nothing but the condition. -/
def unknownLabel (label : Byte) (s : State) : State := raise (.unknownLabel label) s

/-- R130: one handler for one frame. -/
def runHostOp (P : Params) (f : Frame) (s : State) : HostOp → State
  | .getWidgetParams => getWidgetParams P s
  | .setWidgetParams => setWidgetParams P f.payload s
  | .outputOnlySendDmxPacket => outputOnlySendDmxPacket P f.payload s
  | .sendRdmPacket => sendRdmPacket P f.payload s
  | .receiveDmxOnChange => receiveDmxOnChange P f.payload s
  | .getWidgetSn => getWidgetSn P s
  | .sendRdmDiscoveryRequest => sendRdmDiscoveryRequest f.payload s
  | .manufacturerLabel => manufacturerLabel P s
  | .getWidgetName => getWidgetName P s
  | .unknown => unknownLabel f.label s

/-- R130: `DISPATCH(F)`, by label only (R66). `CLEAR_OUTPUT_ONLY` is the first effect of the seven handlers R130 marks
with it. -/
def dispatch (P : Params) (f : Frame) (s : State) : State := runHostOp P f s (hostOpOf P.labels f.label)

/-- GET_WIDGET_PARAMS, R132. -/
def execGetWidgetParams (_payload : List Byte) (s : State) : Out := .next (getWidgetParams Config.params s)

/-- SET_WIDGET_PARAMS, R133. -/
def execSetWidgetParams (payload : List Byte) (s : State) : Out := .next (setWidgetParams Config.params payload s)

/-- OUTPUT_ONLY_SEND_DMX_PACKET, R137. -/
def execOutputOnlySendDmxPacket (payload : List Byte) (s : State) : Out :=
  .next (outputOnlySendDmxPacket Config.params payload s)

/-- SEND_RDM_PACKET, R139. -/
def execSendRdmPacket (payload : List Byte) (s : State) : Out := .next (sendRdmPacket Config.params payload s)

/-- RECEIVE_DMX_ON_CHANGE, R138. -/
def execReceiveDmxOnChange (payload : List Byte) (s : State) : Out := .next (receiveDmxOnChange Config.params payload s)

/-- GET_WIDGET_SN, R134. -/
def execGetWidgetSn (_payload : List Byte) (s : State) : Out := .next (getWidgetSn Config.params s)

/-- SEND_RDM_DISCOVERY_REQUEST, R140. -/
def execSendRdmDiscoveryRequest (payload : List Byte) (s : State) : Out := .next (sendRdmDiscoveryRequest payload s)

/-- MANUFACTURER_LABEL, R135. -/
def execManufacturerLabel (_payload : List Byte) (s : State) : Out := .next (manufacturerLabel Config.params s)

/-- GET_WIDGET_NAME, R136. -/
def execGetWidgetName (_payload : List Byte) (s : State) : Out := .next (getWidgetName Config.params s)

/-- UNKNOWN, R141. -/
def execUnknown (label : Byte) (_payload : List Byte) (s : State) : Out := .next (unknownLabel label s)

/-- RDM_TRANSMIT, R143. -/
def execRdmTransmit (bytes : List Byte) (s : State) : Out := .next (rdmTransmit bytes s)

/-- DISPATCH, R130. -/
def execDispatch (f : Frame) (s : State) : Out := .next (dispatch Config.params f s)

end Sys2Proof.Machine
end

