-- ==== Sys2Proof/Machine/RdmEngine.lean ====
section
/-! DEFINITION. The RDM Discovery & Addressing Engine (44_rdm_engine.md): the eight actions a standard packet selects,
the raw response, the bytes sent on the bus (rows of format BUSOUT), MALFORMED_MUTE and RDM_ENGINE. The engine issues
bare `bus_send`s: no direction change around a reply (R170, R175). -/

namespace Sys2Proof.Machine

/-- R172: the response, by one `bus_send` from a buffer of its own. -/
def sendDubResponse (P : Params) (s : State) : State := busSend (dubResponse P.myUid) s

/-- R78: the acknowledgment of one request. -/
def sendMuteAck (P : Params) (request : List Byte) (s : State) : State :=
  busSend (P.ackEnvelope request controlField) s

/-- R170: the device answers a Discovery-Unique-Branch request. -/
def dubAnswers (P : Params) (v : RdmPacket) (s : State) : Bool :=
  s.rdmIsMuted == false && decide (dubRequestLength ≤ v.bytes.length)
    && inRange P (lowerBound v.bytes) (upperBound v.bytes)

/-- R170: `DUB`. -/
def discUniqueBranch (P : Params) (v : RdmPacket) (s : State) : State :=
  if dubAnswers P v s then sendDubResponse P s else s

/-- R175: the acknowledgment is withheld. -/
def ackSuppressed (P : Params) (v : RdmPacket) : Bool :=
  P.suppressAckOnBroadcast && !isUnicast P v.operands.destination

/-- R175: `MUTE_ACK(pkt, v)`. -/
def muteAck (P : Params) (v : RdmPacket) (s : State) : State :=
  if ackSuppressed P v then s else sendMuteAck P v.bytes s

/-- R176: `MALFORMED_MUTE(pkt)`. -/
def malformedMute (P : Params) (v : RdmPacket) (s : State) : State :=
  let s1 := raise (.malformedRdmRequest v.paramId v.operands.pdl) s
  if P.nackOnMalformedMute then busSend (P.nackResponse v.bytes) s1 else s1

/-- R173, R174: the flag is written before the acknowledgment is sent, and the length test comes before both. -/
def writeMute (P : Params) (flag : Bool) (v : RdmPacket) (s : State) : State :=
  if v.operands.pdl = 0 then muteAck P v (setMuted flag s) else malformedMute P v s

/-- R173: `UN_MUTE`. -/
def discUnMute (P : Params) (v : RdmPacket) (s : State) : State := writeMute P false v s

/-- R174: `MUTE`. -/
def discMute (P : Params) (v : RdmPacket) (s : State) : State := writeMute P true v s

/-- R177: any other discovery parameter id is ignored. -/
def discOther (s : State) : State := s

/-- R178: `LOCAL_PARAM(pkt)`. -/
def localParam (P : Params) (pkt : List Byte) (s : State) : State :=
  match P.paramAccess pkt with
  | none => s
  | some resp => busSend resp s

/-- R180: `DISCOVERY_RESPONSE_SEEN(pkt, k)`. -/
def discoveryResponseSeen (P : Params) (pkt : List Byte) (k : Nat) (s : State) : State :=
  timeoutPath P (receivedDmxPacketRdm P pkt k s)

/-- R181: `OTHER_CLASS(pkt, v)`. -/
def otherClass (P : Params) (v : RdmPacket) (s : State) : State :=
  disarmDeadline (receivedDmxPacketRdm P v.bytes (forwardLength v) s)

/-- R165: one action for one addressed packet. -/
def runBusOp (P : Params) (v : RdmPacket) (s : State) : BusOp → State
  | .discUniqueBranch => discUniqueBranch P v s
  | .discMute => discMute P v s
  | .discUnMute => discUnMute P v s
  | .discOther => discOther s
  | .getCommand => localParam P v.bytes s
  | .setCommand => localParam P v.bytes s
  | .discoveryCommandResponse => discoveryResponseSeen P v.bytes (forwardLength v) s
  | .otherClass => otherClass P v s

/-- R165: `RDM_ENGINE(pkt)`: the raw test, the view, the addressing test, then the class. -/
def rdmEngine (P : Params) (pkt : List Byte) (s : State) : State :=
  if isRawResponse pkt then discoveryResponseSeen P pkt pkt.length s
  else
    match viewPacket pkt with
    | none => s
    | some v =>
      if addressed P v then runBusOp P v s (busOpOf P.rdm v.commandClass v.paramId)
      else raise (.addressMismatch v.operands.destination) s

/-- DISC_UNIQUE_BRANCH, R170. -/
def execDiscUniqueBranch (o : RdmOperands) (s : State) : Out :=
  .next (discUniqueBranch Config.params
    (o.packet Config.params.rdm.discoveryCommand Config.params.rdm.discUniqueBranch) s)

/-- DISC_MUTE, R174. -/
def execDiscMute (o : RdmOperands) (s : State) : Out :=
  .next (discMute Config.params (o.packet Config.params.rdm.discoveryCommand Config.params.rdm.discMute) s)

/-- DISC_UN_MUTE, R173. -/
def execDiscUnMute (o : RdmOperands) (s : State) : Out :=
  .next (discUnMute Config.params (o.packet Config.params.rdm.discoveryCommand Config.params.rdm.discUnMute) s)

/-- DISC_OTHER, R177. -/
def execDiscOther (_paramId : U16) (_o : RdmOperands) (s : State) : Out := .next (discOther s)

/-- GET_COMMAND, R178. -/
def execGetCommand (paramId : U16) (o : RdmOperands) (s : State) : Out :=
  .next (localParam Config.params (o.packet Config.params.rdm.getCommand paramId).bytes s)

/-- SET_COMMAND, R178. -/
def execSetCommand (paramId : U16) (o : RdmOperands) (s : State) : Out :=
  .next (localParam Config.params (o.packet Config.params.rdm.setCommand paramId).bytes s)

/-- DISCOVERY_COMMAND_RESPONSE, R180, with `k = message_length + 2`. -/
def execDiscoveryCommandResponse (paramId : U16) (o : RdmOperands) (s : State) : Out :=
  let v := o.packet Config.params.rdm.discoveryCommandResponse paramId
  .next (discoveryResponseSeen Config.params v.bytes (forwardLength v) s)

/-- RDM_OTHER_CLASS, R181. -/
def execRdmOtherClass (commandClass : Byte) (paramId : U16) (o : RdmOperands) (s : State) : Out :=
  .next (otherClass Config.params (o.packet commandClass paramId) s)

/-- RAW_DISCOVERY_RESPONSE, R167, R180, with `k = pkt.n`: the whole packet. -/
def execRawDiscoveryResponse (rest : List Byte) (s : State) : Out :=
  let pkt := rawFirstByte :: rest
  .next (discoveryResponseSeen Config.params pkt pkt.length s)

/-- DUBRESP, R75. -/
def execDubresp (s : State) : Out := .next (sendDubResponse Config.params s)

/-- MUTEACK, R78. -/
def execMuteack (request : List Byte) (s : State) : Out := .next (sendMuteAck Config.params request s)

/-- RDM_ENGINE, R165. -/
def execRdmEngine (packet : List Byte) (s : State) : Out := .next (rdmEngine Config.params packet s)

/-- MALFORMED_MUTE, R176. -/
def execMalformedMute (p : RdmPacket) (s : State) : Out := .next (malformedMute Config.params p s)

end Sys2Proof.Machine
end

