-- ==== Sys2Proof/Machine/Reactions.lean ====
section
/-! DEFINITION. The seven actions of the Scheduler's tables (43_reactions.md). -/

namespace Sys2Proof.Machine

/-- R150: one decoder call; a frame is dispatched. -/
def hostRx (P : Params) (s : State) : State :=
  match decodeCall P s with
  | (some f, s') => dispatch P f s'
  | (none, s') => s'

/-- R152: a packet is taken only when mode and policy allow. -/
def rdmInDispatch (P : Params) (s : State) : State :=
  if rdmInGuard s then
    match s.busRdm with
    | none => s
    | some pkt => rdmEngine P pkt (busRdmTake s)
  else s

/-- R151: one transmission, and the phase advanced by one period. -/
def pumpSend (s : State) : State :=
  let s1 := busSend (memRead s.dmxBuf 0 s.outputLength) s
  { s1 with outputElapsedUs := s1.outputElapsedUs + s1.outputPeriodUs }

/-- R151. -/
def dmxOutPump (s : State) : State :=
  if s.outputOnly && pumpDue (clockNow s) s.outputElapsedUs s.outputPeriodUs then pumpSend s else s

/-- R153. -/
def dmxInForward (P : Params) (s : State) : State :=
  if dmxInForwardGuard s then busDmxConsume (receivedDmxPacketDmx P s) else s

/-- R157: one frame for each payload, in order. -/
def emitChanges (P : Params) (payloads : List (List Byte)) (s : State) : State :=
  payloads.foldl (fun t q => receivedDmxCos P q t) s

/-- R157: the frames are written and the shadow becomes the whole buffer. -/
def forwardChanges (P : Params) (s : State) : State :=
  let s1 := emitChanges P (P.cosEncode s.cosShadow s.dmxBuf) s
  { s1 with cosShadow := s1.dmxBuf }

/-- R157. -/
def changeOfState (P : Params) (s : State) : State :=
  if changeOfStateGuard s then
    busDmxConsume (if (changedSlots P s.dmxBuf s.cosShadow).isEmpty then s else forwardChanges P s)
  else s

/-- R158: `now` is the event pass's sample. -/
def rdmTimeoutCheck (P : Params) (s : State) : State :=
  if timedOut P s.nowE s.deadline then timeoutPath P s else s

/-- R160: `HEARTBEAT_ACTION()`. The hook is given no state and no port and returns only that it is done. -/
def heartbeat (P : Params) (s : State) : State :=
  match P.heartbeatAction () with
  | () => s

/-- Run a table entry to completion. -/
def runAction (P : Params) (s : State) : Action → State
  | .hostRx => hostRx P s
  | .rdmInDispatch => rdmInDispatch P s
  | .dmxOutPump => dmxOutPump s
  | .dmxInForward => dmxInForward P s
  | .changeOfState => changeOfState P s
  | .rdmTimeoutCheck => rdmTimeoutCheck P s
  | .heartbeat => heartbeat P s

/-- HOST_RX, R150. -/
def execHostRx (s : State) : Out := .next (hostRx Config.params s)

/-- RDM_IN_DISPATCH, R152. -/
def execRdmInDispatch (s : State) : Out := .next (rdmInDispatch Config.params s)

/-- DMX_OUT_PUMP, R151. -/
def execDmxOutPump (s : State) : Out := .next (dmxOutPump s)

/-- DMX_IN_FORWARD, R153. -/
def execDmxInForward (s : State) : Out := .next (dmxInForward Config.params s)

/-- CHANGE_OF_STATE, R157. -/
def execChangeOfState (s : State) : Out := .next (changeOfState Config.params s)

/-- RDM_TIMEOUT_CHECK, R158. -/
def execRdmTimeoutCheck (s : State) : Out := .next (rdmTimeoutCheck Config.params s)

/-- HEARTBEAT, R160. -/
def execHeartbeat (s : State) : Out := .next (heartbeat Config.params s)

end Sys2Proof.Machine
end

