-- ==== Sys2Proof/Machine/Scheduler.lean ====
section
/-! DEFINITION. The Scheduler (41_scheduler.md): SCHED_INIT, SCHED_ITERATION (the step), POLL_PASS, EVENT_PASS and
EVENT_CHECK. -/

namespace Sys2Proof.Machine

/-- R111: `SCHED_INIT`. -/
def schedInit (P : Params) (s : State) : State :=
  setPc ⟨.poll, 0⟩ { s with lastFire := P.eventTable.map fun _ => clockNow s, schedStarted := true }

/-- R113, R115: `NOW_E <- clock_now()`. -/
def sampleEventClock (s : State) : State := { s with nowE := clockNow s }

/-- R14: `LAST_FIRE[j]`. -/
def lastFireAt (j : Nat) (s : State) : U64 := s.lastFire.getD j 0

/-- R116: `LAST_FIRE[j] <- LAST_FIRE[j] + period`. -/
def advanceLastFire (j : Nat) (period : U64) (s : State) : State :=
  { s with lastFire := s.lastFire.set j (lastFireAt j s + period) }

/-- R115: "An action run from the event table that needs the time uses `NOW_E`, not a new sample": its clock samples read
`NOW_E`, and CLOCK itself does not move. -/
def runEventAction (P : Params) (s : State) (a : Action) : State :=
  { runAction P { s with clock := s.nowE } a with clock := s.clock }

/-- R116: `EVENT_CHECK(j)` with `(period, action) = EVENT_TABLE[j]`: at most one firing, and the counter advanced after
the action returns by exactly one period. -/
def checkEntry (P : Params) (j : Nat) (period : U64) (action : Action) (s : State) : State :=
  if eventDue s.nowE (lastFireAt j s) period then advanceLastFire j period (runEventAction P s action) else s

/-- R113: where `pc` goes after poll entry `i`. -/
def afterPoll (P : Params) (i : Nat) : Pc :=
  if i + 1 < P.pollTable.length then ⟨.poll, i + 1⟩ else ⟨.event, 0⟩

/-- R113: where `pc` goes after event entry `j`. -/
def afterEvent (P : Params) (j : Nat) : Pc :=
  if j + 1 < P.eventTable.length then ⟨.event, j + 1⟩ else ⟨.poll, 0⟩

/-- R113: the step at `(POLL, i)`. An empty poll table is skipped. -/
def pollStep (P : Params) (i : Nat) (s : State) : Out :=
  match P.pollTable[i]? with
  | some a => .next (setPc (afterPoll P i) (runAction P s a))
  | none =>
    if i = 0 then .next (setPc ⟨.event, 0⟩ s) else .fault (.pcOutsideTables s.pc)

/-- R113, R115: the event pass takes its clock sample on the step at `(EVENT, 0)`. -/
def enterEvent (j : Nat) (s : State) : State := if j = 0 then sampleEventClock s else s

/-- R113: the step at `(EVENT, j)`. With an empty event table the pass still takes its sample. -/
def eventStep (P : Params) (j : Nat) (s : State) : Out :=
  match P.eventTable[j]? with
  | some (period, a) => .next (setPc (afterEvent P j) (checkEntry P j period a (enterEvent j s)))
  | none =>
    if j = 0 then .next (setPc ⟨.poll, 0⟩ (enterEvent j s)) else .fault (.pcOutsideTables s.pc)

/-- R113: one step of the block: the entry at `pc` run to completion, and `pc` advanced. -/
def schedIteration (P : Params) (s : State) : Out :=
  match s.pc.phase with
  | .init => if s.pc.index = 0 then .next (schedInit P s) else .fault (.pcOutsideTables s.pc)
  | .poll => pollStep P s.pc.index s
  | .event => eventStep P s.pc.index s

/-- R114: every poll entry once, in table order. -/
def pollPass (P : Params) (s : State) : State := P.pollTable.foldl (runAction P) s

/-- R115: the checks of the entries `table`, the first of which has index `j`. -/
def checkFrom (P : Params) (j : Nat) : List (U64 × Action) → State → State
  | [], s => s
  | (period, a) :: rest, s => checkFrom P (j + 1) rest (checkEntry P j period a s)

/-- R115: one clock sample, then every check in table order. -/
def eventPass (P : Params) (s : State) : State := checkFrom P 0 P.eventTable (sampleEventClock s)

/-- SCHED_INIT, R111. -/
def execSchedInit (s : State) : Out := .next (schedInit Config.params s)

/-- SCHED_ITERATION, R113: one step, one table entry (log 28). -/
def execSchedIteration (s : State) : Out := schedIteration Config.params s

/-- POLL_PASS, R114. -/
def execPollPass (s : State) : Out := .next (pollPass Config.params s)

/-- EVENT_PASS, R115. -/
def execEventPass (s : State) : Out := .next (eventPass Config.params s)

/-- EVENT_CHECK, R116. -/
def execEventCheck (j : Nat) (s : State) : Out :=
  match Config.params.eventTable[j]? with
  | some (period, a) => .next (checkEntry Config.params j period a s)
  | none => .fault (.noSuchEvent j)

end Sys2Proof.Machine
end

