-- ==== Sys2Proof/Machine/Dispatch.lean ====
section
/-! DEFINITION. One arm per constructor of `Instr`, each one call of its meaning. -/

namespace Sys2Proof.Machine

def exec (i : Instr) (s : State) : Host.Outcome State Fault Refusal :=
  match i with
  | .getWidgetParams payload => Sys2Proof.Machine.execGetWidgetParams payload s
  | .setWidgetParams payload => Sys2Proof.Machine.execSetWidgetParams payload s
  | .outputOnlySendDmxPacket payload => Sys2Proof.Machine.execOutputOnlySendDmxPacket payload s
  | .sendRdmPacket payload => Sys2Proof.Machine.execSendRdmPacket payload s
  | .receiveDmxOnChange payload => Sys2Proof.Machine.execReceiveDmxOnChange payload s
  | .getWidgetSn payload => Sys2Proof.Machine.execGetWidgetSn payload s
  | .sendRdmDiscoveryRequest payload => Sys2Proof.Machine.execSendRdmDiscoveryRequest payload s
  | .manufacturerLabel payload => Sys2Proof.Machine.execManufacturerLabel payload s
  | .getWidgetName payload => Sys2Proof.Machine.execGetWidgetName payload s
  | .unknown label payload => Sys2Proof.Machine.execUnknown label payload s
  | .getWidgetParamsReply => Sys2Proof.Machine.execGetWidgetParamsReply s
  | .receivedDmxPacketDmx => Sys2Proof.Machine.execReceivedDmxPacketDmx s
  | .receivedDmxPacketRdm packet k => Sys2Proof.Machine.execReceivedDmxPacketRdm packet k s
  | .receivedDmxCos payload => Sys2Proof.Machine.execReceivedDmxCos payload s
  | .getWidgetSnReply => Sys2Proof.Machine.execGetWidgetSnReply s
  | .rdmTimeout => Sys2Proof.Machine.execRdmTimeout s
  | .manufacturerLabelReply => Sys2Proof.Machine.execManufacturerLabelReply s
  | .getWidgetNameReply => Sys2Proof.Machine.execGetWidgetNameReply s
  | .discUniqueBranch o => Sys2Proof.Machine.execDiscUniqueBranch o s
  | .discMute o => Sys2Proof.Machine.execDiscMute o s
  | .discUnMute o => Sys2Proof.Machine.execDiscUnMute o s
  | .discOther paramId o => Sys2Proof.Machine.execDiscOther paramId o s
  | .getCommand paramId o => Sys2Proof.Machine.execGetCommand paramId o s
  | .setCommand paramId o => Sys2Proof.Machine.execSetCommand paramId o s
  | .discoveryCommandResponse paramId o => Sys2Proof.Machine.execDiscoveryCommandResponse paramId o s
  | .rdmOtherClass commandClass paramId o => Sys2Proof.Machine.execRdmOtherClass commandClass paramId o s
  | .rawDiscoveryResponse rest => Sys2Proof.Machine.execRawDiscoveryResponse rest s
  | .dubresp => Sys2Proof.Machine.execDubresp s
  | .muteack request => Sys2Proof.Machine.execMuteack request s
  | .decode => Sys2Proof.Machine.execDecode s
  | .encode label payload => Sys2Proof.Machine.execEncode label payload s
  | .schedInit => Sys2Proof.Machine.execSchedInit s
  | .schedIteration => Sys2Proof.Machine.execSchedIteration s
  | .pollPass => Sys2Proof.Machine.execPollPass s
  | .eventPass => Sys2Proof.Machine.execEventPass s
  | .eventCheck j => Sys2Proof.Machine.execEventCheck j s
  | .hostRx => Sys2Proof.Machine.execHostRx s
  | .rdmInDispatch => Sys2Proof.Machine.execRdmInDispatch s
  | .dmxOutPump => Sys2Proof.Machine.execDmxOutPump s
  | .dmxInForward => Sys2Proof.Machine.execDmxInForward s
  | .changeOfState => Sys2Proof.Machine.execChangeOfState s
  | .rdmTimeoutCheck => Sys2Proof.Machine.execRdmTimeoutCheck s
  | .timeoutPath => Sys2Proof.Machine.execTimeoutPath s
  | .heartbeat => Sys2Proof.Machine.execHeartbeat s
  | .dispatch f => Sys2Proof.Machine.execDispatch f s
  | .rdmTransmit bytes => Sys2Proof.Machine.execRdmTransmit bytes s
  | .rdmEngine packet => Sys2Proof.Machine.execRdmEngine packet s
  | .malformedMute p => Sys2Proof.Machine.execMalformedMute p s

end Sys2Proof.Machine
end

