-- ==== Sys2Proof/Machine/Env.lean ====
section
/-! DEFINITION. The environment (20_memory.md R50): what the host, the Bus Adapter and the clock may do BETWEEN two
steps, and a run as the interleaving of steps with those moves (00_scope.md R5). `step` itself moves none of them
(log 14). -/

namespace Sys2Proof.Machine

/-- R50: the moves of the environment. -/
inductive EnvMove where
  /-- the host appends bytes to `HOST_RX` -/
  | hostBytes (bytes : List Byte)
  /-- the Bus Adapter offers a raw packet -/
  | offerPacket (pkt : List Byte)
  /-- R52: the Bus Adapter writes a received DMX packet into `DMX_BUF` and sets `BUS_DMX_FRESH` -/
  | dmxPacket (buffer : List Byte)
  /-- the clock advances by any amount -/
  | tick (us : U64)
  deriving DecidableEq, Repr

/-- R50: what a move leaves, or none where the environment may not make it: a packet over an untaken one, a buffer of
another length than `DMX_BUF`'s, a clock that would pass 2^64 - 1 and so move backwards (R118, R119, log 15). -/
def envMove (P : Params) (s : State) : EnvMove → Option State
  | .hostBytes bytes => some { s with hostRx := s.hostRx ++ bytes }
  | .offerPacket pkt => if s.busRdm = none then some { s with busRdm := some pkt } else none
  | .dmxPacket buffer =>
    if buffer.length = P.dmxBufLen then some { s with dmxBuf := buffer, busDmxFresh := true } else none
  | .tick us => if s.clock.toNat + us.toNat < 2 ^ 64 then some { s with clock := s.clock + us } else none

/-- Several moves, in order. -/
def envMoves (P : Params) (s : State) : List EnvMove → Option State
  | [] => some s
  | m :: ms => (envMove P s m).bind fun t => envMoves P t ms

/-- R5: a run: before each step the moves of that turn. None where a move may not be made or the step does not answer a
next state. -/
def runTurns (P : Params) (s : State) : List (List EnvMove) → Option State
  | [] => some s
  | ms :: rest =>
    match envMoves P s ms with
    | none => none
    | some t =>
      match schedIteration P t with
      | .next u => runTurns P u rest
      | .fault _ => none
      | .refused _ => none

end Sys2Proof.Machine
end

