-- ==== Sys2Proof/Machine/Silent.lean ====
section
/-! DEFINITION. The silent cases of 60_exceptions.md R196, each as a Boolean test on what the rule is about to read. They
are names for inputs that the block drops without a condition ("the names are for traces only"): no operation of the
machine reads them. -/

namespace Sys2Proof.Machine

/-- `InterFrameByte`, R91: a byte other than the start marker arrives in `HUNT`. -/
def interFrameByte (P : Params) (c : Codec) (b : Byte) : Bool := c.decState == .hunt && b != P.startByte

/-- The event delivers a frame. -/
def deliversFrame : DecEvent → Bool
  | .frame _ => true
  | .none => false
  | .discard _ _ => false

/-- `StrayBeforeEnd`, R96: a byte `b` that is not the end marker arrives in `END_SEARCH`, and the bytes `later` that
follow it hold a late end marker within the bound: the frame is delivered without it. -/
def strayBeforeEnd (P : Params) (c : Codec) (b : Byte) (later : List Byte) : Bool :=
  c.decState == .endSearch && b != P.endByte && deliversFrame (decodeBytes P c (b :: later)).event

/-- `PayloadTruncated` on decode, R95: the length field exceeds the buffer. -/
def decodeTruncates (P : Params) (c : Codec) : Bool := decide (P.cap < c.rxLen.toNat)

/-- `PayloadTruncated` on encode, R101. -/
def encodeTruncates (P : Params) (payload : List Byte) : Bool := decide (P.cap < payload.length)

/-- R167, R168, R73: the engine runs `op` on the packet: it is no raw 0xFE packet, it is addressed, and its class and
parameter id select `op`. -/
def engineRuns (P : Params) (op : BusOp) (v : RdmPacket) : Bool :=
  v.operands.wf && addressed P v && busOpOf P.rdm v.commandClass v.paramId == op

/-- `IgnoredDiscoveryPid`, R177. -/
def ignoredDiscoveryPid (P : Params) (v : RdmPacket) : Bool := engineRuns P .discOther v

/-- `ShortRdmPacket`, R166. -/
def shortRdmPacket (pkt : List Byte) : Bool := !isRawResponse pkt && decide (pkt.length < viewLength)

/-- `ShortDubRequest`, R170: an addressed Discovery-Unique-Branch request that does not hold both bounds. -/
def shortDubRequest (P : Params) (v : RdmPacket) : Bool :=
  engineRuns P .discUniqueBranch v && decide (v.bytes.length < dubRequestLength)

/-- `MutedOrOutOfRange`, R170: an addressed Discovery-Unique-Branch request while muted, or one whose range, where the
request holds it, excludes `MY_UID`. -/
def mutedOrOutOfRange (P : Params) (v : RdmPacket) (s : State) : Bool :=
  engineRuns P .discUniqueBranch v
    && (s.rdmIsMuted
      || decide (dubRequestLength ≤ v.bytes.length) && !inRange P (lowerBound v.bytes) (upperBound v.bytes))

/-- `GuardFalse`, R151 to R158: the action's guard does not hold (HOST_RX and HEARTBEAT have none; a packet's being there
is part of the guard of RDM_IN_DISPATCH, R152). -/
def guardFalse (P : Params) (s : State) : Action → Bool
  | .hostRx => false
  | .rdmInDispatch => !(rdmInGuard s && s.busRdm.isSome)
  | .dmxOutPump => !(s.outputOnly && pumpDue (clockNow s) s.outputElapsedUs s.outputPeriodUs)
  | .dmxInForward => !dmxInForwardGuard s
  | .changeOfState => !changeOfStateGuard s
  | .rdmTimeoutCheck => !timedOut P s.nowE s.deadline
  | .heartbeat => false

/-- `ParamsRejected`, R133. -/
def paramsRejected (P : Params) (payload : List Byte) : Bool := (P.paramsValidate payload).isNone

/-- `ShortPayload`, R137 to R139: the payload is shorter than the bytes its handler reads. -/
def shortPayload (f : Frame) : HostOp → Bool
  | .receiveDmxOnChange => f.payload.isEmpty
  | .sendRdmPacket => decide (f.payload.length ≤ commandClassOffset)
  | .outputOnlySendDmxPacket => decide (f.payload.length ≤ 1)
  | .getWidgetParams => false
  | .setWidgetParams => false
  | .getWidgetSn => false
  | .sendRdmDiscoveryRequest => false
  | .manufacturerLabel => false
  | .getWidgetName => false
  | .unknown => false

end Sys2Proof.Machine
end

