-- ==== Sys2Proof/Machine/Step.lean ====
section
/-! DEFINITION. The step (41_scheduler.md R113) and where it fetches its next instruction. -/

namespace Sys2Proof.Machine

/-- R113: "One step of the block runs the entry at `pc` to completion and advances `pc`": SCHED_ITERATION. -/
def step (s : State) : Host.Outcome State Fault Refusal := exec .schedIteration s

/-- R16, R113: the row of the opcode table that `pc` selects: the table entry, or the check of an event entry. -/
def entryInstr (P : Params) (s : State) : Option Instr :=
  match s.pc.phase with
  | .init => if s.pc.index = 0 then some .schedInit else none
  | .poll => (P.pollTable[s.pc.index]?).map Action.instr
  | .event => (P.eventTable[s.pc.index]?).map fun _ => .eventCheck s.pc.index

/-- R150: the instruction the bytes of `HOST_RX` hold for the next `HOST_RX` action, where they complete a frame. -/
def hostInstr (P : Params) (s : State) : Option Instr :=
  match (decodeBytes P s.codec s.hostRx).event with
  | .frame f => some (instrOfFrame P f)
  | .none => none
  | .discard _ _ => none

/-- The state with a table word placed where `step` fetches its next instruction (log 19): a frame at the head of
`HOST_RX` with the framer in `HUNT` and `pc` at HOST_RX, poll entry 0; or a packet in `BUS_RDM` with `pc` at
RDM_IN_DISPATCH, poll entry 1, and mode and policy such that the packet is taken (R152). -/
def State.withFetchWord (s : State) (nbits w : Nat) : State :=
  match tableWire nbits w with
  | some (.host bytes) =>
    { s with pc := ⟨.poll, 0⟩, codec := { s.codec with decState := .hunt }, hostRx := bytes ++ s.hostRx }
  | some (.bus pkt) =>
    { s with
      pc := ⟨.poll, 1⟩
      mode := .dmxRdm
      receivePolicy := Config.sendAlways
      busRdm := some pkt }
  | none => s

end Sys2Proof.Machine
end

