-- ==== Sys2Proof/Safety.lean ====
section
/-! DEFINITION. What counts as a legal state and a run, in the terms the statements use. -/

namespace Sys2Proof.Machine

/-- R12, R95, R96: the framer's registers are consistent. -/
def CodecWf (P : Params) (c : Codec) : Prop :=
  c.rxBuf.length = P.cap ∧ c.rxCnt ≤ P.cap
    ∧ (c.decState = .payload → c.rxCnt < c.stored P)
    ∧ (c.decState = .endSearch → c.stored P ≤ c.rxCnt)

/-- R16: `pc` lies in the tables (in an empty table, at its index 0). -/
def PcWf (P : Params) (p : Pc) : Prop :=
  match p.phase with
  | .init => p.index = 0
  | .poll => p.index < P.pollTable.length ∨ p.index = 0
  | .event => p.index < P.eventTable.length ∨ p.index = 0

/-- The legal states: buffers of their lengths (R40), a consistent framer (R12), `pc` in the tables (R16), one counter
for each event entry (R14), the output length within the buffer (R20), output-only mode only with the bus at OUTPUT
(R28(a)), the mode the run's parameter (R17), the Scheduler started exactly when `pc` has left INIT (R14, R111). -/
def Legal (P : Params) (s : State) : Prop :=
  Memory.wf P s ∧ CodecWf P s.codec ∧ PcWf P s.pc ∧ s.lastFire.length = P.eventTable.length
    ∧ s.outputLength ≤ P.dmxBufLen ∧ (s.outputOnly = true → s.portDirection = .output) ∧ s.mode = P.mode
    ∧ (s.schedStarted = false ↔ s.pc.phase = .init)

/-- R118, R119: every stored time is a sample of the clock's past. -/
def TimesPast (s : State) : Prop :=
  (∀ t, s.deadline = some t → t.toNat ≤ s.clock.toNat) ∧ s.nowE.toNat ≤ s.clock.toNat
    ∧ s.outputElapsedUs.toNat ≤ s.clock.toNat ∧ ∀ t ∈ s.lastFire, t.toNat ≤ s.clock.toNat

/-- R118: inside an event pass the armed deadline is no later than the pass's sample, so that `NOW_E - t` never
underflows. -/
def DeadlineBeforeSample (s : State) : Prop :=
  s.pc.phase = .event → 0 < s.pc.index → ∀ t, s.deadline = some t → t.toNat ≤ s.nowE.toNat

/-- R5, R50: the states of a run: reset, steps of the block, moves of the environment between them. -/
inductive Reachable (P : Params) : State → Prop where
  | reset : Reachable P (State.resetWith P)
  | step {s t : State} : Reachable P s → schedIteration P s = .next t → Reachable P t
  | env {s t : State} {m : EnvMove} : Reachable P s → envMove P s m = some t → Reachable P t

/-- R122: the block is quiescent. -/
def Quiescent (s : State) : Prop :=
  s.hostRx = [] ∧ s.busRdm = none ∧ s.busDmxFresh = false ∧ s.outputOnly = false ∧ s.deadline = none
    ∧ s.codec.decState = .hunt

/-- R44: the 48-bit number of a UID, its first byte most significant. -/
def uidNumber (u : Uid) : Nat := u.bytes.foldl (fun n b => n * 256 + b.toNat) 0

/-- R102, R103: the bytes of frames written one after the other. -/
def framesBytes (P : Params) (fs : List Frame) : List Byte := fs.flatMap fun f => encodeFrame P f.label f.payload

/-- R65: the labels of the frames the block writes. -/
def widgetToHostLabels : List Byte := [3, 5, 9, 10, 12, 77, 78]

/-- What a state of the block is apart from the sequencer, the clock samples and the event counters that the Scheduler
itself writes. -/
def sameButScheduler (s t : State) : Prop :=
  { t with pc := s.pc, nowE := s.nowE, lastFire := s.lastFire, schedStarted := s.schedStarted } = s

end Sys2Proof.Machine
end

