-- ==== Sys2Proof/Certificates/Slice0/Obligations.lean ====
section
/-! DEFINITION. The statements for the provers. Labels and classes are written as the numbers of 30_encoding.md R65 and
R72, so that a statement does not follow the model's own constants. -/

open Sys2Proof Sys2Proof.Machine

/-! ### The frame codec -/

/-- R102: a framer in HUNT fed `ENCODE(label, payload)` returns the frame on its last byte, having consumed exactly the
frame's bytes, and is in HUNT again; a payload longer than CAP comes back cut to its first CAP bytes. For every value of
the parameters. -/
def Obligations.EncodeThenDecodeReturnsTheFrame : Prop :=
  ∀ (P : Params) (c : Codec) (label : Byte) (payload rest : List Byte),
    P.cap ≤ 65535 → c.decState = .hunt → c.rxBuf.length = P.cap →
      (encodeFrame P label payload).length = min payload.length P.cap + 5 ∧
      ∃ c', decodeBytes P c (encodeFrame P label payload ++ rest)
          = { codec := c', rest := rest, event := .frame { label := label, payload := payload.take P.cap } }
        ∧ c'.decState = .hunt

/-- 40_frame_codec.md section 2 (P2, P4, R96, R98): a frame is delivered only where the bytes hold, after bytes that are
no start marker, a start marker, the frame's label, a length, as many payload bytes as the length says (at most CAP),
then at most CAP minus that many stray bytes that are no end marker, then the end marker; nothing after it is consumed.
The bound, the stray bytes and the cut payload are the spec's decisions D7, D8 and D9 (log 24). -/
def Obligations.DeliveredFrameIsWhole : Prop :=
  ∀ (P : Params) (c : Codec) (bytes : List Byte) (f : Frame),
    c.decState = .hunt → c.rxBuf.length = P.cap → (decodeBytes P c bytes).event = .frame f →
      ∃ before lo hi stray,
        bytes = before ++ [P.startByte, f.label, lo, hi] ++ f.payload ++ stray ++ [P.endByte] ++ (decodeBytes P c bytes).rest
        ∧ (∀ b ∈ before, b ≠ P.startByte) ∧ (∀ b ∈ stray, b ≠ P.endByte)
        ∧ f.payload.length = min (word16 lo hi).toNat P.cap ∧ f.payload.length + stray.length ≤ P.cap
        ∧ (decodeBytes P c bytes).codec.decState = .hunt

/-- 40_frame_codec.md section 2 (P3): a discarded frame costs exactly CAP + 5 bytes from its start marker, and none of
the bytes where its end marker was looked for is the end marker. -/
def Obligations.DiscardCostsCapPlusFiveBytes : Prop :=
  ∀ (P : Params) (c : Codec) (bytes : List Byte) (label : Byte) (len : U16),
    c.decState = .hunt → c.rxBuf.length = P.cap → (decodeBytes P c bytes).event = .discard label len →
      ∃ before lo hi body,
        bytes = before ++ [P.startByte, label, lo, hi] ++ body ++ (decodeBytes P c bytes).rest
        ∧ (∀ b ∈ before, b ≠ P.startByte) ∧ len = word16 lo hi ∧ body.length = P.cap + 1
        ∧ (∀ b ∈ body.drop (min len.toNat P.cap), b ≠ P.endByte)
        ∧ (decodeBytes P c bytes).codec.decState = .hunt

/-- 40_frame_codec.md section 2: when the input runs out in the middle of a frame the framer resumes at the next call
(the spec's decision D5, log 24). -/
def Obligations.DecoderResumesWhereInputRanOut : Prop :=
  ∀ (P : Params) (c : Codec) (early late : List Byte), (decodeBytes P c early).event = .none →
    (decodeBytes P c early).rest = [] ∧
    decodeBytes P c (early ++ late) = decodeBytes P (decodeBytes P c early).codec late

/-- R93, R94, R95: the length bytes and the payload bytes. -/
def Obligations.FramerStoresLengthAndPayload : Prop :=
  ∀ (P : Params) (c : Codec) (b : Byte),
    (c.decState = .lenLo → decStep P c b = ({ c with rxLen := b.setWidth 16, decState := .lenHi }, .none))
    ∧ (c.decState = .lenHi →
        decStep P c b =
          ({ c with
              rxLen := c.rxLen ||| (b.setWidth 16 <<< 8)
              rxCnt := 0
              decState := if 0 < min (c.rxLen ||| (b.setWidth 16 <<< 8)).toNat P.cap then .payload else .endSearch },
            .none))
    ∧ (c.decState = .payload → c.rxCnt < min c.rxLen.toNat P.cap →
        decStep P c b =
          ({ c with
              rxBuf := c.rxBuf.set c.rxCnt b
              rxCnt := c.rxCnt + 1
              decState := if c.rxCnt + 1 = min c.rxLen.toNat P.cap then .endSearch else .payload }, .none))

/-- 40_frame_codec.md section 3: ENCODE writes one whole frame to the host stream and nothing else. The markers 7E and
E7 and the 600 bytes are the defaults of START_BYTE, END_BYTE and CAP, the spec's D3 (log 3) and D4 (log 4). -/
def Obligations.EncodeAppendsOneFrame : Prop :=
  ∀ (label : Byte) (payload : List Byte) (s : State),
    exec (.encode label payload) s = .next
      { s with
        hostTx := s.hostTx ++ [0x7E, label, BitVec.ofNat 8 (min payload.length 600),
          BitVec.ofNat 8 (min payload.length 600 / 256)] ++ payload.take 600 ++ [0xE7] }

/-- 40_frame_codec.md section 2: DECODE consumes bytes of HOST_RX into the framer; a discard, and only a discard, raises
`MalformedFrame`, and nothing else changes. -/
def Obligations.DecodeWritesOnlyFramerAndInput : Prop :=
  ∀ s : State, exec .decode s = .next
    { s with
      codec := (decodeBytes Config.params s.codec s.hostRx).codec
      hostRx := (decodeBytes Config.params s.codec s.hostRx).rest
      trace := s.trace ++
        match (decodeBytes Config.params s.codec s.hostRx).event with
        | .discard label len => [.malformedFrame label len]
        | .frame _ => []
        | .none => [] }

/-! ### Encodings -/

/-- Decode of encode is the instruction, for every instruction that has words, with every operand the encoding admits and
every value of the parameters. -/
def Obligations.DecodeOfEncodeIsTheInstruction : Prop :=
  ∀ (P : Params) (i : Instr) (w : Wire), P.EncodingWf → i.wf P = true → encode P i = some w → decode P w = .ok i

/-- The other direction for packets: a packet that decodes gives a well-formed instruction whose words are that packet,
and only a packet of fewer than 24 bytes that does not begin 0xFE is rejected. -/
def Obligations.EveryPacketByteIsKept : Prop :=
  ∀ (P : Params) (pkt : List Byte),
    (∀ i, decodePacket P pkt = .ok i → i.wf P = true ∧ encode P i = some (.bus pkt))
    ∧ (∀ e, decodePacket P pkt = .error e → e = .shortRdmPacket ∧ pkt.length < 24 ∧ pkt.head? ≠ some 0xFE)

/-- 30_encoding.md sections 2 and 3: a few words of the table decode to the instructions they stand for. -/
def Obligations.TableWordsDecode : Prop :=
  decodeTableWord 8 0x03 = some (.getWidgetParams []) ∧ decodeTableWord 8 0x4E = some (.getWidgetName [])
  ∧ decodeTableWord 8 0x05 = some (.unknown 5 []) ∧ decodeTableWord 8 0xFE = some (.rawDiscoveryResponse [])
  ∧ (∃ o, decodeTableWord 24 0x100002 = some (.discMute o)) ∧ (∃ o, decodeTableWord 24 0x300000 = some (.setCommand 0 o))

/-! ### Host commands -/

/-- R132. The reply's payload is the OPEN parameter PARAMS_REPLY. -/
def Obligations.GetWidgetParamsOnlyReplies : Prop :=
  ∀ (payload : List Byte) (s : State),
    exec (.getWidgetParams payload) s = .next
      { s with hostTx := s.hostTx ++ encodeFrame Config.params 3 (Config.params.paramsReply s.config) }

/-- 42_host_commands.md section 2: SET_WIDGET_PARAMS stores what PARAMS_VALIDATE accepts and forces the direction either
way (that a rejected request still forces it, and that the period follows the configuration, are the spec's decisions D20
and D19, log 25). -/
def Obligations.SetWidgetParamsStoresWhatIsAccepted : Prop :=
  ∀ (payload : List Byte) (s : State),
    exec (.setWidgetParams payload) s = .next
      (match Config.params.paramsValidate payload with
        | some c =>
          { s with
            outputOnly := false
            config := c
            configLog := s.configLog ++ [c]
            outputPeriodUs := Config.params.periodOf c
            busLog := s.busLog ++ [.dir .input true]
            portDirection := .input }
        | none =>
          { s with
            outputOnly := false
            busLog := s.busLog ++ [.dir .input true]
            portDirection := .input })

/-- R134. -/
def Obligations.GetWidgetSnRepliesTheSerialNumber : Prop :=
  ∀ (payload : List Byte) (s : State),
    exec (.getWidgetSn payload) s = .next
      { s with
        outputOnly := false
        hostTx := s.hostTx ++ encodeFrame Config.params 10 Config.params.serial
        busLog := s.busLog ++ [.dir .input true]
        portDirection := .input }

/-- 42_host_commands.md section 2: labels 77 and 78 (that the reply carries the request's label is the spec's decision
D22, log 25). -/
def Obligations.IdentityStringsAreReplied : Prop :=
  ∀ (payload : List Byte) (s : State),
    exec (.manufacturerLabel payload) s = .next
      { s with
        outputOnly := false
        hostTx := s.hostTx ++ encodeFrame Config.params 77 Config.params.manufacturerLabelBytes
        busLog := s.busLog ++ [.dir .input true]
        portDirection := .input }
    ∧ exec (.getWidgetName payload) s = .next
      { s with
        outputOnly := false
        hostTx := s.hostTx ++ encodeFrame Config.params 78 Config.params.nameLabelBytes
        busLog := s.busLog ++ [.dir .input true]
        portDirection := .input }

/-- 42_host_commands.md section 3: label 6 records the slots, the clock and the length, turns the bus to OUTPUT and
sends nothing; `DMX_BUF[0]` and the slots from `min(L, 513)` upward keep their values (the odd lengths are the spec's
decision D18, the forced direction change its decision D15, log 25). -/
def Obligations.OutputOnlyCopiesTheSlots : Prop :=
  ∀ (payload : List Byte) (s : State), s.dmxBuf.length = 513 →
    ∃ buf : List Byte,
      exec (.outputOnlySendDmxPacket payload) s = .next
        { s with
          dmxBuf := buf
          outputElapsedUs := s.clock
          outputLength := min payload.length 513
          busLog := s.busLog ++ [.dir .output true]
          portDirection := .output
          outputOnly := true }
      ∧ buf.length = 513
      ∧ ∀ k, byteAt buf k = if 1 ≤ k ∧ k < min payload.length 513 then byteAt payload k else byteAt s.dmxBuf k

/-- 42_host_commands.md section 3: label 8 (that an empty payload keeps the policy, and that the shadow is zeroed too, are
the spec's decisions D17 and D39, log 25). -/
def Obligations.ReceiveDmxOnChangeSetsPolicyAndZeroes : Prop :=
  ∀ (payload : List Byte) (s : State),
    exec (.receiveDmxOnChange payload) s = .next
      { s with
        outputOnly := false
        receivePolicy := payload.head?.getD s.receivePolicy
        dmxBuf := List.replicate 513 0
        cosShadow := List.replicate 513 0
        busLog := s.busLog ++ [.dir .input false, .dir .input true]
        portDirection := .input }

/-- 42_host_commands.md section 4: the transmit sequence (R143). That both direction changes are forced is the spec's
decision D15 (log 25). -/
def Obligations.RdmTransmitFlipsTheBusAndArms : Prop :=
  ∀ (bytes : List Byte) (s : State),
    exec (.rdmTransmit bytes) s = .next
      { s with
        busLog := s.busLog ++ [.dir .output true, .send bytes, .dir .input true]
        portDirection := .input
        deadline := some s.clock }

/-- 42_host_commands.md section 4: label 7; discovery is running exactly when payload byte 20 is there and is 0x10 (the
offset and the short payload are the spec's decision D23, logs 5 and 25; the forced direction changes are its decision
D15, log 25). -/
def Obligations.SendRdmPacketTransmitsThePayload : Prop :=
  ∀ (payload : List Byte) (s : State),
    exec (.sendRdmPacket payload) s = .next
      { s with
        outputOnly := false
        rdmDiscoveryRunning := decide (payload[20]? = some 0x10)
        busLog := s.busLog ++ [.dir .output true, .send payload, .dir .input true]
        portDirection := .input
        deadline := some s.clock }

/-- 42_host_commands.md section 4: label 11 (R140) runs the transmit sequence (R143). That both direction changes are
forced is the spec's decision D15 (log 25). -/
def Obligations.DiscoveryRequestRunsDiscovery : Prop :=
  ∀ (payload : List Byte) (s : State),
    exec (.sendRdmDiscoveryRequest payload) s = .next
      { s with
        outputOnly := false
        rdmDiscoveryRunning := true
        busLog := s.busLog ++ [.dir .output true, .send payload, .dir .input true]
        portDirection := .input
        deadline := some s.clock }

/-- R141: an unknown label raises its condition, which only the model's trace records, and changes nothing. -/
def Obligations.UnknownLabelChangesNothing : Prop :=
  ∀ (label : Byte) (payload : List Byte) (s : State),
    exec (.unknown label payload) s = .next { s with trace := s.trace ++ [.unknownLabel label] }

/-- 42_host_commands.md section 1: dispatch is by the label alone, and each of the ten cases completes (R130); the seven
labels of R131 clear output-only mode, label 6 enters it (R137), and labels 3 and unknown keep it, which is the spec's
resolution of conflict C3 (log 25). -/
def Obligations.DispatchIsByLabelAlone : Prop :=
  ∀ (f : Frame) (s : State),
    ∃ (i : Instr) (t : State), exec (.dispatch f) s = .next t ∧ exec i s = .next t ∧
      i = (if f.label = 3 then .getWidgetParams f.payload
        else if f.label = 4 then .setWidgetParams f.payload
        else if f.label = 6 then .outputOnlySendDmxPacket f.payload
        else if f.label = 7 then .sendRdmPacket f.payload
        else if f.label = 8 then .receiveDmxOnChange f.payload
        else if f.label = 10 then .getWidgetSn f.payload
        else if f.label = 11 then .sendRdmDiscoveryRequest f.payload
        else if f.label = 77 then .manufacturerLabel f.payload
        else if f.label = 78 then .getWidgetName f.payload
        else .unknown f.label f.payload)
      ∧ t.outputOnly =
        if f.label ∈ ([4, 7, 8, 10, 11, 77, 78] : List Byte) then false else if f.label = 6 then true else s.outputOnly

/-! ### Frames the block writes and bytes it sends -/

/-- 30_encoding.md section 2: the four reply rows append exactly their frame (that the replies to 77 and 78 carry the
request's label is the spec's decision D22, log 25). -/
def Obligations.ReplyRowsAppendTheirFrame : Prop :=
  ∀ s : State,
    exec .getWidgetParamsReply s = .next
      { s with hostTx := s.hostTx ++ encodeFrame Config.params 3 (Config.params.paramsReply s.config) }
    ∧ exec .getWidgetSnReply s = .next { s with hostTx := s.hostTx ++ encodeFrame Config.params 10 Config.params.serial }
    ∧ exec .manufacturerLabelReply s = .next
      { s with hostTx := s.hostTx ++ encodeFrame Config.params 77 Config.params.manufacturerLabelBytes }
    ∧ exec .getWidgetNameReply s = .next
      { s with hostTx := s.hostTx ++ encodeFrame Config.params 78 Config.params.nameLabelBytes }

/-- 43_reactions.md section 2, 44_rdm_engine.md section 4: the rows of labels 5, 9 and 12 append exactly their frame; a
DMX frame carries 00 00 and the 512 slots, an RDM frame 00 and the packet's first `k` bytes (D38, D28, D14: the spec's
decisions, logs 26 and 27). The markers 7E and E7 are defaults (D3, log 3). -/
def Obligations.ForwardRowsAppendTheirFrame : Prop :=
  ∀ (s : State) (packet payload : List Byte) (k : Nat),
    exec .receivedDmxPacketDmx s = .next
      { s with hostTx := s.hostTx ++ encodeFrame Config.params 5 ([0, 0] ++ (s.dmxBuf.drop 1).take 512) }
    ∧ exec (.receivedDmxPacketRdm packet k) s = .next
      { s with hostTx := s.hostTx ++ encodeFrame Config.params 5 (0 :: packet.take k) }
    ∧ exec (.receivedDmxCos payload) s = .next { s with hostTx := s.hostTx ++ encodeFrame Config.params 9 payload }
    ∧ exec .rdmTimeout s = .next { s with hostTx := s.hostTx ++ [0x7E, 0x0C, 0x00, 0x00, 0xE7] }

/-- R75, R77: the bytes of the Discovery-Unique-Branch response, with its checksum. -/
def Obligations.DubrespSendsTheEncodedUid : Prop :=
  ∀ s : State, ∃ (u : Uid) (cs : U16),
    u = Config.params.myUid
    ∧ cs = 6 * 0xFF + u.m0.setWidth 16 + u.m1.setWidth 16 + u.d0.setWidth 16 + u.d1.setWidth 16 + u.d2.setWidth 16
      + u.d3.setWidth 16
    ∧ exec .dubresp s = .next
      { s with
        busLog := s.busLog ++ [.send ([0xFE, 0xFE, 0xFE, 0xFE, 0xFE, 0xFE, 0xFE, 0xAA,
          u.m0 ||| 0xAA, u.m0 ||| 0x55, u.m1 ||| 0xAA, u.m1 ||| 0x55, u.d0 ||| 0xAA, u.d0 ||| 0x55,
          u.d1 ||| 0xAA, u.d1 ||| 0x55, u.d2 ||| 0xAA, u.d2 ||| 0x55, u.d3 ||| 0xAA, u.d3 ||| 0x55,
          (cs >>> 8).setWidth 8 ||| 0xAA, (cs >>> 8).setWidth 8 ||| 0x55, cs.setWidth 8 ||| 0xAA,
          cs.setWidth 8 ||| 0x55] : List Byte)] }

/-- 30_encoding.md section 4: unmasking the pairs of a response gives back the six UID bytes and the two checksum halves,
and the checksum is 6 × 0xFF plus the sum of the UID bytes, for every UID. -/
def Obligations.DubResponseUnmasksToUidAndSum : Prop :=
  ∀ u : Uid,
    (dubResponse u).length = 24
    ∧ (∀ k, k < 6 → unmask (byteAt (dubResponse u) (8 + 2 * k)) (byteAt (dubResponse u) (9 + 2 * k)) = byteAt u.bytes k)
    ∧ (unmask (byteAt (dubResponse u) 20) (byteAt (dubResponse u) 21)).toNat * 256
        + (unmask (byteAt (dubResponse u) 22) (byteAt (dubResponse u) 23)).toNat
      = 1530 + (u.bytes.map BitVec.toNat).sum

/-! ### The RDM engine -/

/-- 44_rdm_engine.md section 2: a Discovery-Unique-Branch request is answered exactly when the device is not muted, the
request holds both bounds and MY_UID lies between them, both ends included; nothing else changes in any case (D29, D35:
the spec's decisions, log 26). -/
def Obligations.DubAnswersInRangeUnmuted : Prop :=
  ∀ (o : RdmOperands) (s : State),
    exec (.discUniqueBranch o) s = .next
      (if s.rdmIsMuted = false ∧ 12 ≤ o.tail.length
          ∧ uidNumber (uidAt o.tail 0) ≤ uidNumber Config.params.myUid
          ∧ uidNumber Config.params.myUid ≤ uidNumber (uidAt o.tail 6)
        then { s with busLog := s.busLog ++ [.send (dubResponse Config.params.myUid)] }
        else s)

/-- R173, R174: an accepted mute or un-mute request writes the flag and sends 00 00, whatever its destination; one with
parameter data writes and sends nothing. -/
def Obligations.MuteRequestsWriteTheFlagAndAcknowledge : Prop :=
  ∀ (o : RdmOperands) (s : State),
    exec (.discMute o) s = .next
      (if o.pdl = 0 then { s with rdmIsMuted := true, busLog := s.busLog ++ [.send [0x00, 0x00]] }
        else { s with trace := s.trace ++ [.malformedRdmRequest 0x0002 o.pdl] })
    ∧ exec (.discUnMute o) s = .next
      (if o.pdl = 0 then { s with rdmIsMuted := false, busLog := s.busLog ++ [.send [0x00, 0x00]] }
        else { s with trace := s.trace ++ [.malformedRdmRequest 0x0003 o.pdl] })

/-- 44_rdm_engine.md section 2: what the three policy parameters change, for every value of them: the acknowledgment's
envelope (D30), its suppression unless unicast (D32), the NACK of a malformed request (D31). With their defaults an
acknowledgment is the two bytes 00 00 and a malformed request only raises its condition. Log 23. -/
def Obligations.MutePoliciesChangeOnlyTheReply : Prop :=
  ∀ (P : Params) (v : RdmPacket) (request : List Byte) (s : State) (muted : Bool),
    exec (.malformedMute v) s = .next { s with trace := s.trace ++ [.malformedRdmRequest v.paramId v.operands.pdl] }
    ∧ exec (.muteack request) s = .next { s with busLog := s.busLog ++ [.send [0x00, 0x00]] } ∧
    (if muted then discMute P v s else discUnMute P v s) =
      if v.operands.pdl = 0 then
        { s with
          rdmIsMuted := muted
          busLog := s.busLog ++
            if P.suppressAckOnBroadcast = true ∧ v.operands.destination ≠ P.myUid then []
            else [.send (P.ackEnvelope v.bytes [0x00, 0x00])] }
      else
        { s with
          trace := s.trace ++ [.malformedRdmRequest v.paramId v.operands.pdl]
          busLog := s.busLog ++ if P.nackOnMalformedMute = true then [.send (P.nackResponse v.bytes)] else [] }

/-- R177, and 44_rdm_engine.md section 3: other discovery parameters are ignored; with the default PARAM_ACCESS a GET or
SET request has no effect at all, and with any other it sends the hook's answer and nothing else (D33, log 23). -/
def Obligations.IgnoredAndLocalRequestsLeaveTheBlockAlone : Prop :=
  ∀ (paramId : U16) (o : RdmOperands) (s : State),
    exec (.discOther paramId o) s = .next s
    ∧ exec (.getCommand paramId o) s = .next s
    ∧ exec (.setCommand paramId o) s = .next s
    ∧ ∀ (P : Params) (pkt : List Byte),
      localParam P pkt s = { s with busLog := s.busLog ++ ((P.paramAccess pkt).map BusEvent.send).toList }

/-- 44_rdm_engine.md section 4: a discovery response and a raw 0xFE packet go to the host, followed by a timeout frame,
and disarm the deadline; the raw packet whole, the standard one through its checksum (D27, D28, D43: logs 26, 27). The
markers 7E and E7 and the class 0x11 are defaults (D3, D26: logs 3, 5). -/
def Obligations.DiscoveryResponsesForwardAndTimeOut : Prop :=
  ∀ (paramId : U16) (o : RdmOperands) (rest : List Byte) (s : State),
    exec (.discoveryCommandResponse paramId o) s = .next
      { s with
        hostTx := s.hostTx
          ++ encodeFrame Config.params 5 (0 :: ((o.packet 0x11 paramId).bytes.take (o.messageLength.toNat + 2)))
          ++ [0x7E, 0x0C, 0x00, 0x00, 0xE7]
        deadline := none
        trace := s.trace ++ [.rdmResponseTimeout] }
    ∧ exec (.rawDiscoveryResponse rest) s = .next
      { s with
        hostTx := s.hostTx ++ encodeFrame Config.params 5 (0 :: 0xFE :: rest) ++ [0x7E, 0x0C, 0x00, 0x00, 0xE7]
        deadline := none
        trace := s.trace ++ [.rdmResponseTimeout] }

/-- R181: the packet is forwarded through its checksum and the deadline disarmed. -/
def Obligations.OtherClassesForwardAndDisarm : Prop :=
  ∀ (commandClass : Byte) (paramId : U16) (o : RdmOperands) (s : State),
    ∃ u, exec (.receivedDmxPacketRdm (o.packet commandClass paramId).bytes (o.messageLength.toNat + 2)) s = .next u
      ∧ exec (.rdmOtherClass commandClass paramId o) s = .next { u with deadline := none }

/-- 44_rdm_engine.md section 1: the engine drops a packet too short to view (D29), raises AddressMismatch for one addressed
elsewhere, and otherwise runs exactly the instruction the packet decodes to; a raw packet is not address-tested (D27).
The decisions are the spec's, log 26. -/
def Obligations.EngineRunsTheDecodedPacket : Prop :=
  ∀ (pkt : List Byte) (s : State),
    (∀ e, decodePacket Config.params pkt = .error e → exec (.rdmEngine pkt) s = .next s)
    ∧ (∀ i, decodePacket Config.params pkt = .ok i →
        ∃ t, exec (.rdmEngine pkt) s = .next t ∧
          if pkt.head? = some 0xFE ∨ uidAt pkt 3 = ⟨0xFF, 0xFF, 0xFF, 0xFF, 0xFF, 0xFF⟩
              ∨ uidAt pkt 3 = Config.params.myUid
              ∨ uidAt pkt 3 = ⟨Config.params.myUid.m0, Config.params.myUid.m1, 0xFF, 0xFF, 0xFF, 0xFF⟩
            then exec i s = .next t
            else t = { s with trace := s.trace ++ [.addressMismatch (uidAt pkt 3)] })

/-- 44_rdm_engine.md section 5: the engine writes only the bus log, the host stream, the mute flag, the deadline and the
trace, and never both a bus reply and a host frame; for every value of the parameters. -/
def Obligations.EngineNeverRepliesAndForwards : Prop :=
  ∀ (P : Params) (pkt : List Byte) (s : State),
    rdmEngine P pkt s =
      { s with
        busLog := (rdmEngine P pkt s).busLog
        hostTx := (rdmEngine P pkt s).hostTx
        rdmIsMuted := (rdmEngine P pkt s).rdmIsMuted
        deadline := (rdmEngine P pkt s).deadline
        trace := (rdmEngine P pkt s).trace }
    ∧ ((rdmEngine P pkt s).busLog = s.busLog ∨ (rdmEngine P pkt s).hostTx = s.hostTx)

/-! ### Scheduled actions -/

/-- R150: HOST_RX dispatches the frame its decoder call answers, at the state that call leaves; without a frame it does
what DECODE does. -/
def Obligations.HostRxRunsTheDecodedFrame : Prop :=
  ∀ s : State, ∃ t, exec .hostRx s = .next t ∧
    match (decodeBytes Config.params s.codec s.hostRx).event with
    | .frame f =>
      exec (.dispatch f)
        { s with
          codec := (decodeBytes Config.params s.codec s.hostRx).codec
          hostRx := (decodeBytes Config.params s.codec s.hostRx).rest } = .next t
    | .none => exec .decode s = .next t
    | .discard _ _ => exec .decode s = .next t

/-- 43_reactions.md section 1: a packet is taken only when mode and policy allow, and goes to the engine (that it stays
with the adapter otherwise is the spec's decision D37, log 26; that SEND_ON_CHANGE_ONLY is the byte 1 is D17, log 6). -/
def Obligations.RdmInDispatchTakesGuardedPackets : Prop :=
  ∀ s : State, ∃ t, exec .rdmInDispatch s = .next t ∧
    match s.busRdm with
    | none => t = s
    | some pkt =>
      if s.mode ≠ .rdmSniffer ∧ s.receivePolicy ≠ 1 then exec (.rdmEngine pkt) { s with busRdm := none } = .next t
      else t = s

/-- R151: the pump. -/
def Obligations.PumpSendsWhenDue : Prop :=
  ∀ s : State,
    exec .dmxOutPump s = .next
      (if s.outputOnly = true ∧ (s.outputElapsedUs + s.outputPeriodUs).toNat ≤ s.clock.toNat
        then { s with
          busLog := s.busLog ++ [.send (s.dmxBuf.take s.outputLength)]
          outputElapsedUs := s.outputElapsedUs + s.outputPeriodUs }
        else s)

/-- 43_reactions.md section 2: a fresh DMX packet is forwarded and consumed in the same action (that SEND_ALWAYS is the
byte 0 is general knowledge, the spec's D17, log 6). -/
def Obligations.DmxInForwardEmitsAndConsumes : Prop :=
  ∀ s : State, ∃ u, exec .receivedDmxPacketDmx s = .next u ∧
    exec .dmxInForward s = .next
      (if s.mode ≠ .rdmSniffer ∧ s.rdmDiscoveryRunning = false ∧ s.portDirection = .input ∧ s.receivePolicy = 0
          ∧ s.busDmxFresh = true
        then { u with busDmxFresh := false }
        else s)

/-- 43_reactions.md section 2: change of state; the frames are COS_ENCODE's payloads in order, and the shadow becomes
the whole buffer. The fresh test, the consume and index 0 are the spec's decision D39 (log 27); that SEND_ON_CHANGE_ONLY
is the byte 1 is D17 (log 6). The first clause is the model's construction (log 22): R157 asks for at least one payload
only when the buffers differ, and `Config.params` gives one for equal buffers too. -/
def Obligations.ChangeOfStateForwardsDifferences : Prop :=
  ∀ s : State,
    Config.params.cosEncode s.cosShadow s.dmxBuf ≠ [] ∧
    exec .changeOfState s = .next
      (if s.mode ≠ .rdmSniffer ∧ s.rdmDiscoveryRunning = false ∧ s.portDirection = .input ∧ s.receivePolicy = 1
          ∧ s.busDmxFresh = true
        then
          if ∃ k ∈ List.range 513, byteAt s.dmxBuf k ≠ byteAt s.cosShadow k then
            { s with
              hostTx := s.hostTx
                ++ (Config.params.cosEncode s.cosShadow s.dmxBuf).flatMap (fun q => encodeFrame Config.params 9 q)
              cosShadow := s.dmxBuf
              busDmxFresh := false }
          else { s with busDmxFresh := false }
        else s)

/-- R158: the timeout check is strict, uses the event pass's sample, and runs the timeout path, which disarms. -/
def Obligations.TimeoutCheckIsStrict : Prop :=
  ∀ s : State, ∃ u, exec .timeoutPath s = .next u ∧ u.deadline = none ∧
    exec .rdmTimeoutCheck s = .next
      (match s.deadline with
        | none => s
        | some t => if 1000000 < (s.nowE - t).toNat then u else s)

/-- 43_reactions.md section 2: the timeout path reports and disarms, whether or not the deadline was armed, and a check
after it does nothing; the heartbeat has no effect (D14, D43, D40: the spec's decisions, log 27). The markers 7E and E7
are defaults (D3, log 3). -/
def Obligations.TimeoutPathReportsOnceAndHeartbeatIsSilent : Prop :=
  ∀ s : State,
    exec .timeoutPath s = .next
      { s with
        trace := s.trace ++ [.rdmResponseTimeout]
        hostTx := s.hostTx ++ [0x7E, 0x0C, 0x00, 0x00, 0xE7]
        deadline := none }
    ∧ (∀ t, exec .timeoutPath s = .next t → exec .rdmTimeoutCheck t = .next t)
    ∧ exec .heartbeat s = .next s

/-! ### The Scheduler -/

/-- 41_scheduler.md section 3: SCHED_INIT seeds every counter with the clock (R111). That there are four counters is the
default event table, the spec's decision D11 (log 8). -/
def Obligations.SchedInitSeedsEveryCounter : Prop :=
  ∀ s : State,
    exec .schedInit s = .next
      { s with
        lastFire := List.replicate 4 s.clock
        schedStarted := true
        pc := { phase := .poll, index := 0 } }

/-- R116: a check of an entry of the table runs its action exactly when due, at most once, and advances its counter by one
period. -/
def Obligations.EventCheckFiresAtMostOnce : Prop :=
  ∀ (j : Nat) (period : U64) (action : Sys2Proof.Action) (s : State),
    Config.params.eventTable[j]? = some (period, action) →
      ∃ u, exec action.instr s = .next u ∧
        exec (.eventCheck j) s = .next
          (if (s.lastFire.getD j 0 + period).toNat ≤ s.nowE.toNat
            then { u with lastFire := s.lastFire.set j (s.lastFire.getD j 0 + period) }
            else s)

/-- 41_scheduler.md sections 2 and 3: the poll pass runs its entries once each, in order (R114), and the event pass
takes one clock sample and checks its entries in order (R115). That these are the three and the four entries named here,
in this order, is the spec's decision D11 on the default tables (log 8). -/
def Obligations.PassesRunEveryEntryInOrder : Prop :=
  ∀ s : State,
    (∃ a b c, exec .hostRx s = .next a ∧ exec .rdmInDispatch a = .next b ∧ exec .dmxOutPump b = .next c
      ∧ exec .pollPass s = .next c)
    ∧ ∃ a b c d,
      exec (.eventCheck 0) { s with nowE := s.clock } = .next a ∧ exec (.eventCheck 1) a = .next b
      ∧ exec (.eventCheck 2) b = .next c ∧ exec (.eventCheck 3) c = .next d ∧ exec .eventPass s = .next d ∧ d.nowE = s.clock

/-- 41_scheduler.md section 3: a step runs the entry at `pc` and advances `pc`; the event pass's sample is taken on the
step at (EVENT, 0). It completes at every `pc` of the tables (that a step is one table entry is the spec's decision D13,
log 28; that the tables have three and four entries is its decision D11, log 8). Outside the tables, where R16 says `pc`
never is, the MODEL stops with a fault of its own (log 20). -/
def Obligations.StepRunsTheEntryAtPc : Prop :=
  ∀ s : State, step s = exec .schedIteration s
    ∧ (s.pc = ⟨.init, 0⟩ → ∃ t, exec .schedInit s = .next t ∧ step s = .next t)
    ∧ (∀ i a, s.pc = ⟨.poll, i⟩ → Config.params.pollTable[i]? = some a →
        ∃ t, exec a.instr s = .next t
          ∧ step s = .next { t with pc := if i + 1 < 3 then ⟨.poll, i + 1⟩ else ⟨.event, 0⟩ })
    ∧ (∀ j, s.pc = ⟨.event, j⟩ → j < 4 →
        ∃ t, exec (.eventCheck j) (if j = 0 then { s with nowE := s.clock } else s) = .next t
          ∧ step s = .next { t with pc := if j + 1 < 4 then ⟨.event, j + 1⟩ else ⟨.poll, 0⟩ })
    ∧ (∀ i, s.pc = ⟨.init, i + 1⟩ ∨ s.pc = ⟨.poll, i + 3⟩ ∨ s.pc = ⟨.event, i + 4⟩ →
        step s = .fault (.pcOutsideTables s.pc))
    ∧ (∀ j, 4 ≤ j → exec (.eventCheck j) s = .fault (.noSuchEvent j))

/-- A step runs the decoded instruction: at HOST_RX the instruction of the frame that the bytes complete, at
RDM_IN_DISPATCH the instruction of an addressed or raw packet that the guard lets in; the step adds the consuming of the
words and the advance of `pc`. That HOST_RX stands at (POLL, 0) and RDM_IN_DISPATCH at (POLL, 1) is the default poll
table, the spec's decision D11 (log 8); that SEND_ON_CHANGE_ONLY is the byte 1 is D17 (log 6). -/
def Obligations.StepRunsTheDecodedInstruction : Prop :=
  ∀ s : State,
    (∀ f, s.pc = ⟨.poll, 0⟩ → (decodeBytes Config.params s.codec s.hostRx).event = .frame f →
      ∃ t, exec (instrOfFrame Config.params f)
          { s with
            codec := (decodeBytes Config.params s.codec s.hostRx).codec
            hostRx := (decodeBytes Config.params s.codec s.hostRx).rest } = .next t
        ∧ step s = .next { t with pc := ⟨.poll, 1⟩ })
    ∧ (∀ pkt i, s.pc = ⟨.poll, 1⟩ → s.mode ≠ .rdmSniffer → s.receivePolicy ≠ 1 → s.busRdm = some pkt →
      decodePacket Config.params pkt = .ok i →
      (pkt.head? = some 0xFE ∨ uidAt pkt 3 = ⟨0xFF, 0xFF, 0xFF, 0xFF, 0xFF, 0xFF⟩ ∨ uidAt pkt 3 = Config.params.myUid
        ∨ uidAt pkt 3 = ⟨Config.params.myUid.m0, Config.params.myUid.m1, 0xFF, 0xFF, 0xFF, 0xFF⟩) →
      ∃ t, exec i { s with busRdm := none } = .next t ∧ step s = .next { t with pc := ⟨.poll, 2⟩ })

/-- 41_scheduler.md section 3: with the default tables (the spec's decision D11, log 8), seven steps from (POLL, 0) with
no environment move between them are one poll pass and then one event pass. -/
def Obligations.SevenStepsAreOneIteration : Prop :=
  ∀ s : State, s.pc = ⟨.poll, 0⟩ →
    ∃ u v, exec .pollPass s = .next u ∧ exec .eventPass u = .next v ∧ Sys2Proof.core.run 7 s = .next v

/-- 41_scheduler.md section 3: an event that is `n` whole periods late fires once at each of the next `n` checks, its
counter a whole number of periods from where it was, and then not again; for every action, every table and every period
(no time sum overflows: the premise of section 4). -/
def Obligations.LateEventFiresOncePerCheck : Prop :=
  ∀ (P : Params) (j n : Nat) (period : U64) (a : Sys2Proof.Action) (s : State),
    j < s.lastFire.length →
    (s.lastFire.getD j 0).toNat + n * period.toNat ≤ s.nowE.toNat →
    s.nowE.toNat < (s.lastFire.getD j 0).toNat + (n + 1) * period.toNat →
    (s.lastFire.getD j 0).toNat + (n + 1) * period.toNat < 2 ^ 64 →
      (∀ k, k ≤ n → (((checkEntry P j period a)^[k] s).lastFire.getD j 0).toNat
          = (s.lastFire.getD j 0).toNat + k * period.toNat)
      ∧ checkEntry P j period a ((checkEntry P j period a)^[n] s) = (checkEntry P j period a)^[n] s

/-! ### Invariants and whole-machine rules -/

/-- 70_reset_and_hazards.md section 1: what reset leaves, the values the spec gives (its decision D41, log 9; the byte 0
for SEND_ALWAYS and the 600 bytes are its D17 and D4, logs 6 and 4); the reset values the model chose (logs 10 to 13)
are not stated. -/
def Obligations.ResetLeavesTheQuiescentValues : Prop :=
  State.reset.codec = { decState := .hunt, rxLabel := 0, rxLen := 0, rxCnt := 0, rxBuf := List.replicate 600 0 }
  ∧ State.reset.schedStarted = false ∧ State.reset.pc = ⟨.init, 0⟩ ∧ State.reset.mode = Config.params.mode
  ∧ State.reset.receivePolicy = 0 ∧ State.reset.portDirection = .input ∧ State.reset.outputOnly = false
  ∧ State.reset.outputPeriodUs = Config.params.periodOf Config.params.configInit
  ∧ State.reset.outputElapsedUs = 0 ∧ State.reset.outputLength = 0 ∧ State.reset.config = Config.params.configInit
  ∧ State.reset.rdmDiscoveryRunning = false ∧ State.reset.rdmIsMuted = false ∧ State.reset.deadline = none
  ∧ State.reset.dmxBuf = List.replicate 513 0 ∧ State.reset.cosShadow = List.replicate 513 0
  ∧ State.reset.hostTx = [] ∧ State.reset.busLog = []

/-- The reset state is legal, for every value of the parameters. -/
def Obligations.ResetIsLegal : Prop :=
  ∀ P : Params, Legal P (State.resetWith P) ∧ Legal Config.params State.reset

/-- A step from a legal state leaves a legal state: buffers of their lengths, a consistent framer, `pc` in the tables,
output-only mode only with the bus at OUTPUT, the mode constant. -/
def Obligations.StepKeepsLegalStates : Prop :=
  ∀ s t : State, Legal Config.params s → step s = .next t → Legal Config.params t

/-- For every value of the parameters, every state of a run (steps and environment moves in any order) is legal, and the
block never stops: its next step answers a next state. -/
def Obligations.NoRunStops : Prop :=
  ∀ (P : Params) (s : State), Reachable P s → Legal P s ∧ ∃ t, schedIteration P s = .next t

/-- Every stored time is in the clock's past, and stays so after every step; inside an event pass the armed deadline is no
later than the pass's sample, so the timeout's subtraction never underflows. -/
def Obligations.StoredTimesStayInThePast : Prop :=
  ∀ s t : State, TimesPast s → DeadlineBeforeSample s → step s = .next t → TimesPast t ∧ DeadlineBeforeSample t

/-- 44_rdm_engine.md section 5: nothing but an addressed, well-formed mute or un-mute request changes the mute flag.
That the packet is taken at (POLL, 1) is the default poll table, the spec's decision D11 (log 8); the class and the
parameter ids are D26 (log 5). -/
def Obligations.OnlyMuteRequestsChangeTheFlag : Prop :=
  ∀ s t : State, step s = .next t → t.rdmIsMuted ≠ s.rdmIsMuted →
    s.pc = ⟨.poll, 1⟩ ∧ ∃ pkt v, s.busRdm = some pkt ∧ pkt.head? ≠ some 0xFE ∧ viewPacket pkt = some v
      ∧ addressed Config.params v = true ∧ v.commandClass = 0x10 ∧ v.operands.pdl = 0
      ∧ v.paramId = if t.rdmIsMuted then 0x0002 else 0x0003

/-- 43_reactions.md section 2: `rdm_discovery_running` is sticky: only a label-7 or label-11 frame writes it, and only a
label-7 frame without the discovery class clears it. That the frame is taken at (POLL, 0) is the default poll table, the
spec's decision D11 (log 8); that the class is payload byte 20 is general knowledge and D23 (logs 5 and 25). -/
def Obligations.OnlyRdmCommandsChangeDiscoveryRunning : Prop :=
  ∀ s t : State, step s = .next t → t.rdmDiscoveryRunning ≠ s.rdmDiscoveryRunning →
    s.pc = ⟨.poll, 0⟩ ∧ ∃ f, (decodeBytes Config.params s.codec s.hostRx).event = .frame f
      ∧ if t.rdmDiscoveryRunning then f.label = 11 ∨ f.label = 7 ∧ f.payload[20]? = some 0x10
        else f.label = 7 ∧ f.payload[20]? ≠ some 0x10

/-- 42_host_commands.md section 1: only a label-6 frame enters output-only mode, and only the labels 4, 7, 8, 10, 11, 77
and 78 leave it (conflict C3, log 25). That the frame is taken at (POLL, 0) is the default poll table, the spec's
decision D11 (log 8). -/
def Obligations.OnlyTheseLabelsChangeOutputOnly : Prop :=
  ∀ s t : State, step s = .next t → t.outputOnly ≠ s.outputOnly →
    s.pc = ⟨.poll, 0⟩ ∧ ∃ f, (decodeBytes Config.params s.codec s.hostRx).event = .frame f
      ∧ if t.outputOnly then f.label = 6 else f.label ∈ ([4, 7, 8, 10, 11, 77, 78] : List Byte)

/-- 10_state.md section 4: only a transmit command arms the deadline, and only a packet from the bus or a timeout
disarms it. That these happen at (POLL, 0), (POLL, 1) and (EVENT, 2) is the default tables, the spec's decision D11 (log
8). -/
def Obligations.OnlyTransmitArmsTheDeadline : Prop :=
  ∀ s t : State, step s = .next t → t.deadline ≠ s.deadline →
    (s.pc = ⟨.poll, 0⟩ ∧ t.deadline = some s.clock ∧ ∃ f, (decodeBytes Config.params s.codec s.hostRx).event = .frame f
      ∧ (f.label = 7 ∨ f.label = 11))
    ∨ (s.pc = ⟨.poll, 1⟩ ∧ t.deadline = none ∧ s.busRdm ≠ none ∧ t.hostTx ≠ s.hostTx)
    ∨ (s.pc = ⟨.event, 2⟩ ∧ t.deadline = none ∧ ∃ t0, s.deadline = some t0 ∧ 1000000 < (s.nowE - t0).toNat)

/-- 60_exceptions.md section 3, 10_state.md section 6: a step raises at most one condition, its outputs are only ever
appended, and it moves neither the clock nor the mode. -/
def Obligations.StepOnlyAppendsItsOutputs : Prop :=
  ∀ s t : State, step s = .next t →
    s.hostTx <+: t.hostTx ∧ s.busLog <+: t.busLog ∧ s.configLog <+: t.configLog
    ∧ (t.trace = s.trace ∨ ∃ c, t.trace = s.trace ++ [c]) ∧ t.clock = s.clock ∧ t.mode = s.mode

/-- 40_frame_codec.md section 3: in every state of a run, HOST_TX is a sequence of whole frames with labels the block
may write and payloads within CAP (600 is the default, the spec's decision D4, log 4). -/
def Obligations.HostOutputIsWholeFrames : Prop :=
  ∀ s : State, Reachable Config.params s →
    ∃ fs : List Frame, s.hostTx = framesBytes Config.params fs
      ∧ ∀ f ∈ fs, f.label ∈ widgetToHostLabels ∧ f.payload.length ≤ 600

/-- 41_scheduler.md section 4: in a quiescent state a step changes nothing but the sequencer, the clock sample and the
counters, and the block stays quiescent. R122 excepts HEARTBEAT; that a heartbeat changes nothing either is R160, the
spec's decision D40 (log 27). The tables are the default ones, D11 (log 8). -/
def Obligations.QuiescentBlockStaysSo : Prop :=
  ∀ s t : State, Quiescent s → step s = .next t → sameButScheduler s t ∧ Quiescent t

/-- 20_memory.md section 5: an environment move changes only the environment's state and DMX_BUF, never takes input away,
never moves the clock backwards, and keeps a legal state legal. -/
def Obligations.EnvironmentMovesOnlyItsPorts : Prop :=
  ∀ (P : Params) (s t : State) (m : EnvMove), envMove P s m = some t →
    t = { s with
        hostRx := t.hostRx
        busRdm := t.busRdm
        dmxBuf := t.dmxBuf
        busDmxFresh := t.busDmxFresh
        clock := t.clock }
    ∧ s.hostRx <+: t.hostRx ∧ (s.busDmxFresh = true → t.busDmxFresh = true) ∧ (s.busRdm ≠ none → t.busRdm = s.busRdm)
    ∧ s.clock.toNat ≤ t.clock.toNat ∧ (Legal P s → Legal P t)
end

