-- ==== Sys2Proof/Laws/State.lean ====
section
/-! SUPPORT. One lemma per field of `State` per named update, each true by rfl. -/

namespace Sys2Proof.Machine

section
variable (s : State)

/-! ### raise -/
@[simp] theorem raise_codec (c : Condition) : (raise c s).codec = s.codec := rfl
@[simp] theorem raise_schedStarted (c : Condition) : (raise c s).schedStarted = s.schedStarted := rfl
@[simp] theorem raise_lastFire (c : Condition) : (raise c s).lastFire = s.lastFire := rfl
@[simp] theorem raise_nowE (c : Condition) : (raise c s).nowE = s.nowE := rfl
@[simp] theorem raise_pc (c : Condition) : (raise c s).pc = s.pc := rfl
@[simp] theorem raise_mode (c : Condition) : (raise c s).mode = s.mode := rfl
@[simp] theorem raise_receivePolicy (c : Condition) : (raise c s).receivePolicy = s.receivePolicy := rfl
@[simp] theorem raise_portDirection (c : Condition) : (raise c s).portDirection = s.portDirection := rfl
@[simp] theorem raise_outputOnly (c : Condition) : (raise c s).outputOnly = s.outputOnly := rfl
@[simp] theorem raise_outputPeriodUs (c : Condition) : (raise c s).outputPeriodUs = s.outputPeriodUs := rfl
@[simp] theorem raise_outputElapsedUs (c : Condition) : (raise c s).outputElapsedUs = s.outputElapsedUs := rfl
@[simp] theorem raise_outputLength (c : Condition) : (raise c s).outputLength = s.outputLength := rfl
@[simp] theorem raise_config (c : Condition) : (raise c s).config = s.config := rfl
@[simp] theorem raise_rdmDiscoveryRunning (c : Condition) : (raise c s).rdmDiscoveryRunning = s.rdmDiscoveryRunning := rfl
@[simp] theorem raise_rdmIsMuted (c : Condition) : (raise c s).rdmIsMuted = s.rdmIsMuted := rfl
@[simp] theorem raise_deadline (c : Condition) : (raise c s).deadline = s.deadline := rfl
@[simp] theorem raise_dmxBuf (c : Condition) : (raise c s).dmxBuf = s.dmxBuf := rfl
@[simp] theorem raise_cosShadow (c : Condition) : (raise c s).cosShadow = s.cosShadow := rfl
@[simp] theorem raise_hostRx (c : Condition) : (raise c s).hostRx = s.hostRx := rfl
@[simp] theorem raise_hostTx (c : Condition) : (raise c s).hostTx = s.hostTx := rfl
@[simp] theorem raise_busRdm (c : Condition) : (raise c s).busRdm = s.busRdm := rfl
@[simp] theorem raise_busDmxFresh (c : Condition) : (raise c s).busDmxFresh = s.busDmxFresh := rfl
@[simp] theorem raise_busLog (c : Condition) : (raise c s).busLog = s.busLog := rfl
@[simp] theorem raise_clock (c : Condition) : (raise c s).clock = s.clock := rfl
@[simp] theorem raise_configLog (c : Condition) : (raise c s).configLog = s.configLog := rfl
@[simp] theorem raise_trace (c : Condition) : (raise c s).trace = s.trace ++ [c] := rfl

/-! ### hostSend -/
@[simp] theorem hostSend_codec (bs : List Byte) : (hostSend bs s).codec = s.codec := rfl
@[simp] theorem hostSend_schedStarted (bs : List Byte) : (hostSend bs s).schedStarted = s.schedStarted := rfl
@[simp] theorem hostSend_lastFire (bs : List Byte) : (hostSend bs s).lastFire = s.lastFire := rfl
@[simp] theorem hostSend_nowE (bs : List Byte) : (hostSend bs s).nowE = s.nowE := rfl
@[simp] theorem hostSend_pc (bs : List Byte) : (hostSend bs s).pc = s.pc := rfl
@[simp] theorem hostSend_mode (bs : List Byte) : (hostSend bs s).mode = s.mode := rfl
@[simp] theorem hostSend_receivePolicy (bs : List Byte) : (hostSend bs s).receivePolicy = s.receivePolicy := rfl
@[simp] theorem hostSend_portDirection (bs : List Byte) : (hostSend bs s).portDirection = s.portDirection := rfl
@[simp] theorem hostSend_outputOnly (bs : List Byte) : (hostSend bs s).outputOnly = s.outputOnly := rfl
@[simp] theorem hostSend_outputPeriodUs (bs : List Byte) : (hostSend bs s).outputPeriodUs = s.outputPeriodUs := rfl
@[simp] theorem hostSend_outputElapsedUs (bs : List Byte) : (hostSend bs s).outputElapsedUs = s.outputElapsedUs := rfl
@[simp] theorem hostSend_outputLength (bs : List Byte) : (hostSend bs s).outputLength = s.outputLength := rfl
@[simp] theorem hostSend_config (bs : List Byte) : (hostSend bs s).config = s.config := rfl
@[simp] theorem hostSend_rdmDiscoveryRunning (bs : List Byte) : (hostSend bs s).rdmDiscoveryRunning = s.rdmDiscoveryRunning := rfl
@[simp] theorem hostSend_rdmIsMuted (bs : List Byte) : (hostSend bs s).rdmIsMuted = s.rdmIsMuted := rfl
@[simp] theorem hostSend_deadline (bs : List Byte) : (hostSend bs s).deadline = s.deadline := rfl
@[simp] theorem hostSend_dmxBuf (bs : List Byte) : (hostSend bs s).dmxBuf = s.dmxBuf := rfl
@[simp] theorem hostSend_cosShadow (bs : List Byte) : (hostSend bs s).cosShadow = s.cosShadow := rfl
@[simp] theorem hostSend_hostRx (bs : List Byte) : (hostSend bs s).hostRx = s.hostRx := rfl
@[simp] theorem hostSend_hostTx (bs : List Byte) : (hostSend bs s).hostTx = s.hostTx ++ bs := rfl
@[simp] theorem hostSend_busRdm (bs : List Byte) : (hostSend bs s).busRdm = s.busRdm := rfl
@[simp] theorem hostSend_busDmxFresh (bs : List Byte) : (hostSend bs s).busDmxFresh = s.busDmxFresh := rfl
@[simp] theorem hostSend_busLog (bs : List Byte) : (hostSend bs s).busLog = s.busLog := rfl
@[simp] theorem hostSend_clock (bs : List Byte) : (hostSend bs s).clock = s.clock := rfl
@[simp] theorem hostSend_configLog (bs : List Byte) : (hostSend bs s).configLog = s.configLog := rfl
@[simp] theorem hostSend_trace (bs : List Byte) : (hostSend bs s).trace = s.trace := rfl

/-! ### busSend -/
@[simp] theorem busSend_codec (bs : List Byte) : (busSend bs s).codec = s.codec := rfl
@[simp] theorem busSend_schedStarted (bs : List Byte) : (busSend bs s).schedStarted = s.schedStarted := rfl
@[simp] theorem busSend_lastFire (bs : List Byte) : (busSend bs s).lastFire = s.lastFire := rfl
@[simp] theorem busSend_nowE (bs : List Byte) : (busSend bs s).nowE = s.nowE := rfl
@[simp] theorem busSend_pc (bs : List Byte) : (busSend bs s).pc = s.pc := rfl
@[simp] theorem busSend_mode (bs : List Byte) : (busSend bs s).mode = s.mode := rfl
@[simp] theorem busSend_receivePolicy (bs : List Byte) : (busSend bs s).receivePolicy = s.receivePolicy := rfl
@[simp] theorem busSend_portDirection (bs : List Byte) : (busSend bs s).portDirection = s.portDirection := rfl
@[simp] theorem busSend_outputOnly (bs : List Byte) : (busSend bs s).outputOnly = s.outputOnly := rfl
@[simp] theorem busSend_outputPeriodUs (bs : List Byte) : (busSend bs s).outputPeriodUs = s.outputPeriodUs := rfl
@[simp] theorem busSend_outputElapsedUs (bs : List Byte) : (busSend bs s).outputElapsedUs = s.outputElapsedUs := rfl
@[simp] theorem busSend_outputLength (bs : List Byte) : (busSend bs s).outputLength = s.outputLength := rfl
@[simp] theorem busSend_config (bs : List Byte) : (busSend bs s).config = s.config := rfl
@[simp] theorem busSend_rdmDiscoveryRunning (bs : List Byte) : (busSend bs s).rdmDiscoveryRunning = s.rdmDiscoveryRunning := rfl
@[simp] theorem busSend_rdmIsMuted (bs : List Byte) : (busSend bs s).rdmIsMuted = s.rdmIsMuted := rfl
@[simp] theorem busSend_deadline (bs : List Byte) : (busSend bs s).deadline = s.deadline := rfl
@[simp] theorem busSend_dmxBuf (bs : List Byte) : (busSend bs s).dmxBuf = s.dmxBuf := rfl
@[simp] theorem busSend_cosShadow (bs : List Byte) : (busSend bs s).cosShadow = s.cosShadow := rfl
@[simp] theorem busSend_hostRx (bs : List Byte) : (busSend bs s).hostRx = s.hostRx := rfl
@[simp] theorem busSend_hostTx (bs : List Byte) : (busSend bs s).hostTx = s.hostTx := rfl
@[simp] theorem busSend_busRdm (bs : List Byte) : (busSend bs s).busRdm = s.busRdm := rfl
@[simp] theorem busSend_busDmxFresh (bs : List Byte) : (busSend bs s).busDmxFresh = s.busDmxFresh := rfl
@[simp] theorem busSend_busLog (bs : List Byte) : (busSend bs s).busLog = s.busLog ++ [.send bs] := rfl
@[simp] theorem busSend_clock (bs : List Byte) : (busSend bs s).clock = s.clock := rfl
@[simp] theorem busSend_configLog (bs : List Byte) : (busSend bs s).configLog = s.configLog := rfl
@[simp] theorem busSend_trace (bs : List Byte) : (busSend bs s).trace = s.trace := rfl

/-! ### setDirection -/
@[simp] theorem setDirection_codec (d : Direction) (f : Bool) : (setDirection d f s).codec = s.codec := rfl
@[simp] theorem setDirection_schedStarted (d : Direction) (f : Bool) : (setDirection d f s).schedStarted = s.schedStarted := rfl
@[simp] theorem setDirection_lastFire (d : Direction) (f : Bool) : (setDirection d f s).lastFire = s.lastFire := rfl
@[simp] theorem setDirection_nowE (d : Direction) (f : Bool) : (setDirection d f s).nowE = s.nowE := rfl
@[simp] theorem setDirection_pc (d : Direction) (f : Bool) : (setDirection d f s).pc = s.pc := rfl
@[simp] theorem setDirection_mode (d : Direction) (f : Bool) : (setDirection d f s).mode = s.mode := rfl
@[simp] theorem setDirection_receivePolicy (d : Direction) (f : Bool) : (setDirection d f s).receivePolicy = s.receivePolicy := rfl
@[simp] theorem setDirection_portDirection (d : Direction) (f : Bool) : (setDirection d f s).portDirection = d := rfl
@[simp] theorem setDirection_outputOnly (d : Direction) (f : Bool) : (setDirection d f s).outputOnly = s.outputOnly := rfl
@[simp] theorem setDirection_outputPeriodUs (d : Direction) (f : Bool) : (setDirection d f s).outputPeriodUs = s.outputPeriodUs := rfl
@[simp] theorem setDirection_outputElapsedUs (d : Direction) (f : Bool) : (setDirection d f s).outputElapsedUs = s.outputElapsedUs := rfl
@[simp] theorem setDirection_outputLength (d : Direction) (f : Bool) : (setDirection d f s).outputLength = s.outputLength := rfl
@[simp] theorem setDirection_config (d : Direction) (f : Bool) : (setDirection d f s).config = s.config := rfl
@[simp] theorem setDirection_rdmDiscoveryRunning (d : Direction) (f : Bool) : (setDirection d f s).rdmDiscoveryRunning = s.rdmDiscoveryRunning := rfl
@[simp] theorem setDirection_rdmIsMuted (d : Direction) (f : Bool) : (setDirection d f s).rdmIsMuted = s.rdmIsMuted := rfl
@[simp] theorem setDirection_deadline (d : Direction) (f : Bool) : (setDirection d f s).deadline = s.deadline := rfl
@[simp] theorem setDirection_dmxBuf (d : Direction) (f : Bool) : (setDirection d f s).dmxBuf = s.dmxBuf := rfl
@[simp] theorem setDirection_cosShadow (d : Direction) (f : Bool) : (setDirection d f s).cosShadow = s.cosShadow := rfl
@[simp] theorem setDirection_hostRx (d : Direction) (f : Bool) : (setDirection d f s).hostRx = s.hostRx := rfl
@[simp] theorem setDirection_hostTx (d : Direction) (f : Bool) : (setDirection d f s).hostTx = s.hostTx := rfl
@[simp] theorem setDirection_busRdm (d : Direction) (f : Bool) : (setDirection d f s).busRdm = s.busRdm := rfl
@[simp] theorem setDirection_busDmxFresh (d : Direction) (f : Bool) : (setDirection d f s).busDmxFresh = s.busDmxFresh := rfl
@[simp] theorem setDirection_busLog (d : Direction) (f : Bool) : (setDirection d f s).busLog = s.busLog ++ [.dir d f] := rfl
@[simp] theorem setDirection_clock (d : Direction) (f : Bool) : (setDirection d f s).clock = s.clock := rfl
@[simp] theorem setDirection_configLog (d : Direction) (f : Bool) : (setDirection d f s).configLog = s.configLog := rfl
@[simp] theorem setDirection_trace (d : Direction) (f : Bool) : (setDirection d f s).trace = s.trace := rfl

/-! ### busRdmTake -/
@[simp] theorem busRdmTake_codec : (busRdmTake s).codec = s.codec := rfl
@[simp] theorem busRdmTake_schedStarted : (busRdmTake s).schedStarted = s.schedStarted := rfl
@[simp] theorem busRdmTake_lastFire : (busRdmTake s).lastFire = s.lastFire := rfl
@[simp] theorem busRdmTake_nowE : (busRdmTake s).nowE = s.nowE := rfl
@[simp] theorem busRdmTake_pc : (busRdmTake s).pc = s.pc := rfl
@[simp] theorem busRdmTake_mode : (busRdmTake s).mode = s.mode := rfl
@[simp] theorem busRdmTake_receivePolicy : (busRdmTake s).receivePolicy = s.receivePolicy := rfl
@[simp] theorem busRdmTake_portDirection : (busRdmTake s).portDirection = s.portDirection := rfl
@[simp] theorem busRdmTake_outputOnly : (busRdmTake s).outputOnly = s.outputOnly := rfl
@[simp] theorem busRdmTake_outputPeriodUs : (busRdmTake s).outputPeriodUs = s.outputPeriodUs := rfl
@[simp] theorem busRdmTake_outputElapsedUs : (busRdmTake s).outputElapsedUs = s.outputElapsedUs := rfl
@[simp] theorem busRdmTake_outputLength : (busRdmTake s).outputLength = s.outputLength := rfl
@[simp] theorem busRdmTake_config : (busRdmTake s).config = s.config := rfl
@[simp] theorem busRdmTake_rdmDiscoveryRunning : (busRdmTake s).rdmDiscoveryRunning = s.rdmDiscoveryRunning := rfl
@[simp] theorem busRdmTake_rdmIsMuted : (busRdmTake s).rdmIsMuted = s.rdmIsMuted := rfl
@[simp] theorem busRdmTake_deadline : (busRdmTake s).deadline = s.deadline := rfl
@[simp] theorem busRdmTake_dmxBuf : (busRdmTake s).dmxBuf = s.dmxBuf := rfl
@[simp] theorem busRdmTake_cosShadow : (busRdmTake s).cosShadow = s.cosShadow := rfl
@[simp] theorem busRdmTake_hostRx : (busRdmTake s).hostRx = s.hostRx := rfl
@[simp] theorem busRdmTake_hostTx : (busRdmTake s).hostTx = s.hostTx := rfl
@[simp] theorem busRdmTake_busRdm : (busRdmTake s).busRdm = none := rfl
@[simp] theorem busRdmTake_busDmxFresh : (busRdmTake s).busDmxFresh = s.busDmxFresh := rfl
@[simp] theorem busRdmTake_busLog : (busRdmTake s).busLog = s.busLog := rfl
@[simp] theorem busRdmTake_clock : (busRdmTake s).clock = s.clock := rfl
@[simp] theorem busRdmTake_configLog : (busRdmTake s).configLog = s.configLog := rfl
@[simp] theorem busRdmTake_trace : (busRdmTake s).trace = s.trace := rfl

/-! ### busDmxConsume -/
@[simp] theorem busDmxConsume_codec : (busDmxConsume s).codec = s.codec := rfl
@[simp] theorem busDmxConsume_schedStarted : (busDmxConsume s).schedStarted = s.schedStarted := rfl
@[simp] theorem busDmxConsume_lastFire : (busDmxConsume s).lastFire = s.lastFire := rfl
@[simp] theorem busDmxConsume_nowE : (busDmxConsume s).nowE = s.nowE := rfl
@[simp] theorem busDmxConsume_pc : (busDmxConsume s).pc = s.pc := rfl
@[simp] theorem busDmxConsume_mode : (busDmxConsume s).mode = s.mode := rfl
@[simp] theorem busDmxConsume_receivePolicy : (busDmxConsume s).receivePolicy = s.receivePolicy := rfl
@[simp] theorem busDmxConsume_portDirection : (busDmxConsume s).portDirection = s.portDirection := rfl
@[simp] theorem busDmxConsume_outputOnly : (busDmxConsume s).outputOnly = s.outputOnly := rfl
@[simp] theorem busDmxConsume_outputPeriodUs : (busDmxConsume s).outputPeriodUs = s.outputPeriodUs := rfl
@[simp] theorem busDmxConsume_outputElapsedUs : (busDmxConsume s).outputElapsedUs = s.outputElapsedUs := rfl
@[simp] theorem busDmxConsume_outputLength : (busDmxConsume s).outputLength = s.outputLength := rfl
@[simp] theorem busDmxConsume_config : (busDmxConsume s).config = s.config := rfl
@[simp] theorem busDmxConsume_rdmDiscoveryRunning : (busDmxConsume s).rdmDiscoveryRunning = s.rdmDiscoveryRunning := rfl
@[simp] theorem busDmxConsume_rdmIsMuted : (busDmxConsume s).rdmIsMuted = s.rdmIsMuted := rfl
@[simp] theorem busDmxConsume_deadline : (busDmxConsume s).deadline = s.deadline := rfl
@[simp] theorem busDmxConsume_dmxBuf : (busDmxConsume s).dmxBuf = s.dmxBuf := rfl
@[simp] theorem busDmxConsume_cosShadow : (busDmxConsume s).cosShadow = s.cosShadow := rfl
@[simp] theorem busDmxConsume_hostRx : (busDmxConsume s).hostRx = s.hostRx := rfl
@[simp] theorem busDmxConsume_hostTx : (busDmxConsume s).hostTx = s.hostTx := rfl
@[simp] theorem busDmxConsume_busRdm : (busDmxConsume s).busRdm = s.busRdm := rfl
@[simp] theorem busDmxConsume_busDmxFresh : (busDmxConsume s).busDmxFresh = false := rfl
@[simp] theorem busDmxConsume_busLog : (busDmxConsume s).busLog = s.busLog := rfl
@[simp] theorem busDmxConsume_clock : (busDmxConsume s).clock = s.clock := rfl
@[simp] theorem busDmxConsume_configLog : (busDmxConsume s).configLog = s.configLog := rfl
@[simp] theorem busDmxConsume_trace : (busDmxConsume s).trace = s.trace := rfl

/-! ### configStore -/
@[simp] theorem configStore_codec (c : WidgetConfig) : (configStore c s).codec = s.codec := rfl
@[simp] theorem configStore_schedStarted (c : WidgetConfig) : (configStore c s).schedStarted = s.schedStarted := rfl
@[simp] theorem configStore_lastFire (c : WidgetConfig) : (configStore c s).lastFire = s.lastFire := rfl
@[simp] theorem configStore_nowE (c : WidgetConfig) : (configStore c s).nowE = s.nowE := rfl
@[simp] theorem configStore_pc (c : WidgetConfig) : (configStore c s).pc = s.pc := rfl
@[simp] theorem configStore_mode (c : WidgetConfig) : (configStore c s).mode = s.mode := rfl
@[simp] theorem configStore_receivePolicy (c : WidgetConfig) : (configStore c s).receivePolicy = s.receivePolicy := rfl
@[simp] theorem configStore_portDirection (c : WidgetConfig) : (configStore c s).portDirection = s.portDirection := rfl
@[simp] theorem configStore_outputOnly (c : WidgetConfig) : (configStore c s).outputOnly = s.outputOnly := rfl
@[simp] theorem configStore_outputPeriodUs (c : WidgetConfig) : (configStore c s).outputPeriodUs = s.outputPeriodUs := rfl
@[simp] theorem configStore_outputElapsedUs (c : WidgetConfig) : (configStore c s).outputElapsedUs = s.outputElapsedUs := rfl
@[simp] theorem configStore_outputLength (c : WidgetConfig) : (configStore c s).outputLength = s.outputLength := rfl
@[simp] theorem configStore_config (c : WidgetConfig) : (configStore c s).config = s.config := rfl
@[simp] theorem configStore_rdmDiscoveryRunning (c : WidgetConfig) : (configStore c s).rdmDiscoveryRunning = s.rdmDiscoveryRunning := rfl
@[simp] theorem configStore_rdmIsMuted (c : WidgetConfig) : (configStore c s).rdmIsMuted = s.rdmIsMuted := rfl
@[simp] theorem configStore_deadline (c : WidgetConfig) : (configStore c s).deadline = s.deadline := rfl
@[simp] theorem configStore_dmxBuf (c : WidgetConfig) : (configStore c s).dmxBuf = s.dmxBuf := rfl
@[simp] theorem configStore_cosShadow (c : WidgetConfig) : (configStore c s).cosShadow = s.cosShadow := rfl
@[simp] theorem configStore_hostRx (c : WidgetConfig) : (configStore c s).hostRx = s.hostRx := rfl
@[simp] theorem configStore_hostTx (c : WidgetConfig) : (configStore c s).hostTx = s.hostTx := rfl
@[simp] theorem configStore_busRdm (c : WidgetConfig) : (configStore c s).busRdm = s.busRdm := rfl
@[simp] theorem configStore_busDmxFresh (c : WidgetConfig) : (configStore c s).busDmxFresh = s.busDmxFresh := rfl
@[simp] theorem configStore_busLog (c : WidgetConfig) : (configStore c s).busLog = s.busLog := rfl
@[simp] theorem configStore_clock (c : WidgetConfig) : (configStore c s).clock = s.clock := rfl
@[simp] theorem configStore_configLog (c : WidgetConfig) : (configStore c s).configLog = s.configLog ++ [c] := rfl
@[simp] theorem configStore_trace (c : WidgetConfig) : (configStore c s).trace = s.trace := rfl

/-! ### emit -/
@[simp] theorem emit_codec (P : Params) (l : Byte) (p : List Byte) : (emit P l p s).codec = s.codec := rfl
@[simp] theorem emit_schedStarted (P : Params) (l : Byte) (p : List Byte) : (emit P l p s).schedStarted = s.schedStarted := rfl
@[simp] theorem emit_lastFire (P : Params) (l : Byte) (p : List Byte) : (emit P l p s).lastFire = s.lastFire := rfl
@[simp] theorem emit_nowE (P : Params) (l : Byte) (p : List Byte) : (emit P l p s).nowE = s.nowE := rfl
@[simp] theorem emit_pc (P : Params) (l : Byte) (p : List Byte) : (emit P l p s).pc = s.pc := rfl
@[simp] theorem emit_mode (P : Params) (l : Byte) (p : List Byte) : (emit P l p s).mode = s.mode := rfl
@[simp] theorem emit_receivePolicy (P : Params) (l : Byte) (p : List Byte) : (emit P l p s).receivePolicy = s.receivePolicy := rfl
@[simp] theorem emit_portDirection (P : Params) (l : Byte) (p : List Byte) : (emit P l p s).portDirection = s.portDirection := rfl
@[simp] theorem emit_outputOnly (P : Params) (l : Byte) (p : List Byte) : (emit P l p s).outputOnly = s.outputOnly := rfl
@[simp] theorem emit_outputPeriodUs (P : Params) (l : Byte) (p : List Byte) : (emit P l p s).outputPeriodUs = s.outputPeriodUs := rfl
@[simp] theorem emit_outputElapsedUs (P : Params) (l : Byte) (p : List Byte) : (emit P l p s).outputElapsedUs = s.outputElapsedUs := rfl
@[simp] theorem emit_outputLength (P : Params) (l : Byte) (p : List Byte) : (emit P l p s).outputLength = s.outputLength := rfl
@[simp] theorem emit_config (P : Params) (l : Byte) (p : List Byte) : (emit P l p s).config = s.config := rfl
@[simp] theorem emit_rdmDiscoveryRunning (P : Params) (l : Byte) (p : List Byte) : (emit P l p s).rdmDiscoveryRunning = s.rdmDiscoveryRunning := rfl
@[simp] theorem emit_rdmIsMuted (P : Params) (l : Byte) (p : List Byte) : (emit P l p s).rdmIsMuted = s.rdmIsMuted := rfl
@[simp] theorem emit_deadline (P : Params) (l : Byte) (p : List Byte) : (emit P l p s).deadline = s.deadline := rfl
@[simp] theorem emit_dmxBuf (P : Params) (l : Byte) (p : List Byte) : (emit P l p s).dmxBuf = s.dmxBuf := rfl
@[simp] theorem emit_cosShadow (P : Params) (l : Byte) (p : List Byte) : (emit P l p s).cosShadow = s.cosShadow := rfl
@[simp] theorem emit_hostRx (P : Params) (l : Byte) (p : List Byte) : (emit P l p s).hostRx = s.hostRx := rfl
@[simp] theorem emit_hostTx (P : Params) (l : Byte) (p : List Byte) : (emit P l p s).hostTx = s.hostTx ++ encodeFrame P l p := rfl
@[simp] theorem emit_busRdm (P : Params) (l : Byte) (p : List Byte) : (emit P l p s).busRdm = s.busRdm := rfl
@[simp] theorem emit_busDmxFresh (P : Params) (l : Byte) (p : List Byte) : (emit P l p s).busDmxFresh = s.busDmxFresh := rfl
@[simp] theorem emit_busLog (P : Params) (l : Byte) (p : List Byte) : (emit P l p s).busLog = s.busLog := rfl
@[simp] theorem emit_clock (P : Params) (l : Byte) (p : List Byte) : (emit P l p s).clock = s.clock := rfl
@[simp] theorem emit_configLog (P : Params) (l : Byte) (p : List Byte) : (emit P l p s).configLog = s.configLog := rfl
@[simp] theorem emit_trace (P : Params) (l : Byte) (p : List Byte) : (emit P l p s).trace = s.trace := rfl

/-! ### setPc -/
@[simp] theorem setPc_codec (p : Pc) : (setPc p s).codec = s.codec := rfl
@[simp] theorem setPc_schedStarted (p : Pc) : (setPc p s).schedStarted = s.schedStarted := rfl
@[simp] theorem setPc_lastFire (p : Pc) : (setPc p s).lastFire = s.lastFire := rfl
@[simp] theorem setPc_nowE (p : Pc) : (setPc p s).nowE = s.nowE := rfl
@[simp] theorem setPc_pc (p : Pc) : (setPc p s).pc = p := rfl
@[simp] theorem setPc_mode (p : Pc) : (setPc p s).mode = s.mode := rfl
@[simp] theorem setPc_receivePolicy (p : Pc) : (setPc p s).receivePolicy = s.receivePolicy := rfl
@[simp] theorem setPc_portDirection (p : Pc) : (setPc p s).portDirection = s.portDirection := rfl
@[simp] theorem setPc_outputOnly (p : Pc) : (setPc p s).outputOnly = s.outputOnly := rfl
@[simp] theorem setPc_outputPeriodUs (p : Pc) : (setPc p s).outputPeriodUs = s.outputPeriodUs := rfl
@[simp] theorem setPc_outputElapsedUs (p : Pc) : (setPc p s).outputElapsedUs = s.outputElapsedUs := rfl
@[simp] theorem setPc_outputLength (p : Pc) : (setPc p s).outputLength = s.outputLength := rfl
@[simp] theorem setPc_config (p : Pc) : (setPc p s).config = s.config := rfl
@[simp] theorem setPc_rdmDiscoveryRunning (p : Pc) : (setPc p s).rdmDiscoveryRunning = s.rdmDiscoveryRunning := rfl
@[simp] theorem setPc_rdmIsMuted (p : Pc) : (setPc p s).rdmIsMuted = s.rdmIsMuted := rfl
@[simp] theorem setPc_deadline (p : Pc) : (setPc p s).deadline = s.deadline := rfl
@[simp] theorem setPc_dmxBuf (p : Pc) : (setPc p s).dmxBuf = s.dmxBuf := rfl
@[simp] theorem setPc_cosShadow (p : Pc) : (setPc p s).cosShadow = s.cosShadow := rfl
@[simp] theorem setPc_hostRx (p : Pc) : (setPc p s).hostRx = s.hostRx := rfl
@[simp] theorem setPc_hostTx (p : Pc) : (setPc p s).hostTx = s.hostTx := rfl
@[simp] theorem setPc_busRdm (p : Pc) : (setPc p s).busRdm = s.busRdm := rfl
@[simp] theorem setPc_busDmxFresh (p : Pc) : (setPc p s).busDmxFresh = s.busDmxFresh := rfl
@[simp] theorem setPc_busLog (p : Pc) : (setPc p s).busLog = s.busLog := rfl
@[simp] theorem setPc_clock (p : Pc) : (setPc p s).clock = s.clock := rfl
@[simp] theorem setPc_configLog (p : Pc) : (setPc p s).configLog = s.configLog := rfl
@[simp] theorem setPc_trace (p : Pc) : (setPc p s).trace = s.trace := rfl

/-! ### takeDecoded -/
@[simp] theorem takeDecoded_codec (r : DecodeResult) : (takeDecoded r s).codec = r.codec := rfl
@[simp] theorem takeDecoded_schedStarted (r : DecodeResult) : (takeDecoded r s).schedStarted = s.schedStarted := rfl
@[simp] theorem takeDecoded_lastFire (r : DecodeResult) : (takeDecoded r s).lastFire = s.lastFire := rfl
@[simp] theorem takeDecoded_nowE (r : DecodeResult) : (takeDecoded r s).nowE = s.nowE := rfl
@[simp] theorem takeDecoded_pc (r : DecodeResult) : (takeDecoded r s).pc = s.pc := rfl
@[simp] theorem takeDecoded_mode (r : DecodeResult) : (takeDecoded r s).mode = s.mode := rfl
@[simp] theorem takeDecoded_receivePolicy (r : DecodeResult) : (takeDecoded r s).receivePolicy = s.receivePolicy := rfl
@[simp] theorem takeDecoded_portDirection (r : DecodeResult) : (takeDecoded r s).portDirection = s.portDirection := rfl
@[simp] theorem takeDecoded_outputOnly (r : DecodeResult) : (takeDecoded r s).outputOnly = s.outputOnly := rfl
@[simp] theorem takeDecoded_outputPeriodUs (r : DecodeResult) : (takeDecoded r s).outputPeriodUs = s.outputPeriodUs := rfl
@[simp] theorem takeDecoded_outputElapsedUs (r : DecodeResult) : (takeDecoded r s).outputElapsedUs = s.outputElapsedUs := rfl
@[simp] theorem takeDecoded_outputLength (r : DecodeResult) : (takeDecoded r s).outputLength = s.outputLength := rfl
@[simp] theorem takeDecoded_config (r : DecodeResult) : (takeDecoded r s).config = s.config := rfl
@[simp] theorem takeDecoded_rdmDiscoveryRunning (r : DecodeResult) : (takeDecoded r s).rdmDiscoveryRunning = s.rdmDiscoveryRunning := rfl
@[simp] theorem takeDecoded_rdmIsMuted (r : DecodeResult) : (takeDecoded r s).rdmIsMuted = s.rdmIsMuted := rfl
@[simp] theorem takeDecoded_deadline (r : DecodeResult) : (takeDecoded r s).deadline = s.deadline := rfl
@[simp] theorem takeDecoded_dmxBuf (r : DecodeResult) : (takeDecoded r s).dmxBuf = s.dmxBuf := rfl
@[simp] theorem takeDecoded_cosShadow (r : DecodeResult) : (takeDecoded r s).cosShadow = s.cosShadow := rfl
@[simp] theorem takeDecoded_hostRx (r : DecodeResult) : (takeDecoded r s).hostRx = r.rest := rfl
@[simp] theorem takeDecoded_hostTx (r : DecodeResult) : (takeDecoded r s).hostTx = s.hostTx := rfl
@[simp] theorem takeDecoded_busRdm (r : DecodeResult) : (takeDecoded r s).busRdm = s.busRdm := rfl
@[simp] theorem takeDecoded_busDmxFresh (r : DecodeResult) : (takeDecoded r s).busDmxFresh = s.busDmxFresh := rfl
@[simp] theorem takeDecoded_busLog (r : DecodeResult) : (takeDecoded r s).busLog = s.busLog := rfl
@[simp] theorem takeDecoded_clock (r : DecodeResult) : (takeDecoded r s).clock = s.clock := rfl
@[simp] theorem takeDecoded_configLog (r : DecodeResult) : (takeDecoded r s).configLog = s.configLog := rfl
@[simp] theorem takeDecoded_trace (r : DecodeResult) : (takeDecoded r s).trace = s.trace := rfl

/-! ### clearOutputOnly -/
@[simp] theorem clearOutputOnly_codec : (clearOutputOnly s).codec = s.codec := rfl
@[simp] theorem clearOutputOnly_schedStarted : (clearOutputOnly s).schedStarted = s.schedStarted := rfl
@[simp] theorem clearOutputOnly_lastFire : (clearOutputOnly s).lastFire = s.lastFire := rfl
@[simp] theorem clearOutputOnly_nowE : (clearOutputOnly s).nowE = s.nowE := rfl
@[simp] theorem clearOutputOnly_pc : (clearOutputOnly s).pc = s.pc := rfl
@[simp] theorem clearOutputOnly_mode : (clearOutputOnly s).mode = s.mode := rfl
@[simp] theorem clearOutputOnly_receivePolicy : (clearOutputOnly s).receivePolicy = s.receivePolicy := rfl
@[simp] theorem clearOutputOnly_portDirection : (clearOutputOnly s).portDirection = s.portDirection := rfl
@[simp] theorem clearOutputOnly_outputOnly : (clearOutputOnly s).outputOnly = false := rfl
@[simp] theorem clearOutputOnly_outputPeriodUs : (clearOutputOnly s).outputPeriodUs = s.outputPeriodUs := rfl
@[simp] theorem clearOutputOnly_outputElapsedUs : (clearOutputOnly s).outputElapsedUs = s.outputElapsedUs := rfl
@[simp] theorem clearOutputOnly_outputLength : (clearOutputOnly s).outputLength = s.outputLength := rfl
@[simp] theorem clearOutputOnly_config : (clearOutputOnly s).config = s.config := rfl
@[simp] theorem clearOutputOnly_rdmDiscoveryRunning : (clearOutputOnly s).rdmDiscoveryRunning = s.rdmDiscoveryRunning := rfl
@[simp] theorem clearOutputOnly_rdmIsMuted : (clearOutputOnly s).rdmIsMuted = s.rdmIsMuted := rfl
@[simp] theorem clearOutputOnly_deadline : (clearOutputOnly s).deadline = s.deadline := rfl
@[simp] theorem clearOutputOnly_dmxBuf : (clearOutputOnly s).dmxBuf = s.dmxBuf := rfl
@[simp] theorem clearOutputOnly_cosShadow : (clearOutputOnly s).cosShadow = s.cosShadow := rfl
@[simp] theorem clearOutputOnly_hostRx : (clearOutputOnly s).hostRx = s.hostRx := rfl
@[simp] theorem clearOutputOnly_hostTx : (clearOutputOnly s).hostTx = s.hostTx := rfl
@[simp] theorem clearOutputOnly_busRdm : (clearOutputOnly s).busRdm = s.busRdm := rfl
@[simp] theorem clearOutputOnly_busDmxFresh : (clearOutputOnly s).busDmxFresh = s.busDmxFresh := rfl
@[simp] theorem clearOutputOnly_busLog : (clearOutputOnly s).busLog = s.busLog := rfl
@[simp] theorem clearOutputOnly_clock : (clearOutputOnly s).clock = s.clock := rfl
@[simp] theorem clearOutputOnly_configLog : (clearOutputOnly s).configLog = s.configLog := rfl
@[simp] theorem clearOutputOnly_trace : (clearOutputOnly s).trace = s.trace := rfl

/-! ### setOutputOnly -/
@[simp] theorem setOutputOnly_codec : (setOutputOnly s).codec = s.codec := rfl
@[simp] theorem setOutputOnly_schedStarted : (setOutputOnly s).schedStarted = s.schedStarted := rfl
@[simp] theorem setOutputOnly_lastFire : (setOutputOnly s).lastFire = s.lastFire := rfl
@[simp] theorem setOutputOnly_nowE : (setOutputOnly s).nowE = s.nowE := rfl
@[simp] theorem setOutputOnly_pc : (setOutputOnly s).pc = s.pc := rfl
@[simp] theorem setOutputOnly_mode : (setOutputOnly s).mode = s.mode := rfl
@[simp] theorem setOutputOnly_receivePolicy : (setOutputOnly s).receivePolicy = s.receivePolicy := rfl
@[simp] theorem setOutputOnly_portDirection : (setOutputOnly s).portDirection = s.portDirection := rfl
@[simp] theorem setOutputOnly_outputOnly : (setOutputOnly s).outputOnly = true := rfl
@[simp] theorem setOutputOnly_outputPeriodUs : (setOutputOnly s).outputPeriodUs = s.outputPeriodUs := rfl
@[simp] theorem setOutputOnly_outputElapsedUs : (setOutputOnly s).outputElapsedUs = s.outputElapsedUs := rfl
@[simp] theorem setOutputOnly_outputLength : (setOutputOnly s).outputLength = s.outputLength := rfl
@[simp] theorem setOutputOnly_config : (setOutputOnly s).config = s.config := rfl
@[simp] theorem setOutputOnly_rdmDiscoveryRunning : (setOutputOnly s).rdmDiscoveryRunning = s.rdmDiscoveryRunning := rfl
@[simp] theorem setOutputOnly_rdmIsMuted : (setOutputOnly s).rdmIsMuted = s.rdmIsMuted := rfl
@[simp] theorem setOutputOnly_deadline : (setOutputOnly s).deadline = s.deadline := rfl
@[simp] theorem setOutputOnly_dmxBuf : (setOutputOnly s).dmxBuf = s.dmxBuf := rfl
@[simp] theorem setOutputOnly_cosShadow : (setOutputOnly s).cosShadow = s.cosShadow := rfl
@[simp] theorem setOutputOnly_hostRx : (setOutputOnly s).hostRx = s.hostRx := rfl
@[simp] theorem setOutputOnly_hostTx : (setOutputOnly s).hostTx = s.hostTx := rfl
@[simp] theorem setOutputOnly_busRdm : (setOutputOnly s).busRdm = s.busRdm := rfl
@[simp] theorem setOutputOnly_busDmxFresh : (setOutputOnly s).busDmxFresh = s.busDmxFresh := rfl
@[simp] theorem setOutputOnly_busLog : (setOutputOnly s).busLog = s.busLog := rfl
@[simp] theorem setOutputOnly_clock : (setOutputOnly s).clock = s.clock := rfl
@[simp] theorem setOutputOnly_configLog : (setOutputOnly s).configLog = s.configLog := rfl
@[simp] theorem setOutputOnly_trace : (setOutputOnly s).trace = s.trace := rfl

/-! ### setDiscoveryRunning -/
@[simp] theorem setDiscoveryRunning_codec (b : Bool) : (setDiscoveryRunning b s).codec = s.codec := rfl
@[simp] theorem setDiscoveryRunning_schedStarted (b : Bool) : (setDiscoveryRunning b s).schedStarted = s.schedStarted := rfl
@[simp] theorem setDiscoveryRunning_lastFire (b : Bool) : (setDiscoveryRunning b s).lastFire = s.lastFire := rfl
@[simp] theorem setDiscoveryRunning_nowE (b : Bool) : (setDiscoveryRunning b s).nowE = s.nowE := rfl
@[simp] theorem setDiscoveryRunning_pc (b : Bool) : (setDiscoveryRunning b s).pc = s.pc := rfl
@[simp] theorem setDiscoveryRunning_mode (b : Bool) : (setDiscoveryRunning b s).mode = s.mode := rfl
@[simp] theorem setDiscoveryRunning_receivePolicy (b : Bool) : (setDiscoveryRunning b s).receivePolicy = s.receivePolicy := rfl
@[simp] theorem setDiscoveryRunning_portDirection (b : Bool) : (setDiscoveryRunning b s).portDirection = s.portDirection := rfl
@[simp] theorem setDiscoveryRunning_outputOnly (b : Bool) : (setDiscoveryRunning b s).outputOnly = s.outputOnly := rfl
@[simp] theorem setDiscoveryRunning_outputPeriodUs (b : Bool) : (setDiscoveryRunning b s).outputPeriodUs = s.outputPeriodUs := rfl
@[simp] theorem setDiscoveryRunning_outputElapsedUs (b : Bool) : (setDiscoveryRunning b s).outputElapsedUs = s.outputElapsedUs := rfl
@[simp] theorem setDiscoveryRunning_outputLength (b : Bool) : (setDiscoveryRunning b s).outputLength = s.outputLength := rfl
@[simp] theorem setDiscoveryRunning_config (b : Bool) : (setDiscoveryRunning b s).config = s.config := rfl
@[simp] theorem setDiscoveryRunning_rdmDiscoveryRunning (b : Bool) : (setDiscoveryRunning b s).rdmDiscoveryRunning = b := rfl
@[simp] theorem setDiscoveryRunning_rdmIsMuted (b : Bool) : (setDiscoveryRunning b s).rdmIsMuted = s.rdmIsMuted := rfl
@[simp] theorem setDiscoveryRunning_deadline (b : Bool) : (setDiscoveryRunning b s).deadline = s.deadline := rfl
@[simp] theorem setDiscoveryRunning_dmxBuf (b : Bool) : (setDiscoveryRunning b s).dmxBuf = s.dmxBuf := rfl
@[simp] theorem setDiscoveryRunning_cosShadow (b : Bool) : (setDiscoveryRunning b s).cosShadow = s.cosShadow := rfl
@[simp] theorem setDiscoveryRunning_hostRx (b : Bool) : (setDiscoveryRunning b s).hostRx = s.hostRx := rfl
@[simp] theorem setDiscoveryRunning_hostTx (b : Bool) : (setDiscoveryRunning b s).hostTx = s.hostTx := rfl
@[simp] theorem setDiscoveryRunning_busRdm (b : Bool) : (setDiscoveryRunning b s).busRdm = s.busRdm := rfl
@[simp] theorem setDiscoveryRunning_busDmxFresh (b : Bool) : (setDiscoveryRunning b s).busDmxFresh = s.busDmxFresh := rfl
@[simp] theorem setDiscoveryRunning_busLog (b : Bool) : (setDiscoveryRunning b s).busLog = s.busLog := rfl
@[simp] theorem setDiscoveryRunning_clock (b : Bool) : (setDiscoveryRunning b s).clock = s.clock := rfl
@[simp] theorem setDiscoveryRunning_configLog (b : Bool) : (setDiscoveryRunning b s).configLog = s.configLog := rfl
@[simp] theorem setDiscoveryRunning_trace (b : Bool) : (setDiscoveryRunning b s).trace = s.trace := rfl

/-! ### setMuted -/
@[simp] theorem setMuted_codec (b : Bool) : (setMuted b s).codec = s.codec := rfl
@[simp] theorem setMuted_schedStarted (b : Bool) : (setMuted b s).schedStarted = s.schedStarted := rfl
@[simp] theorem setMuted_lastFire (b : Bool) : (setMuted b s).lastFire = s.lastFire := rfl
@[simp] theorem setMuted_nowE (b : Bool) : (setMuted b s).nowE = s.nowE := rfl
@[simp] theorem setMuted_pc (b : Bool) : (setMuted b s).pc = s.pc := rfl
@[simp] theorem setMuted_mode (b : Bool) : (setMuted b s).mode = s.mode := rfl
@[simp] theorem setMuted_receivePolicy (b : Bool) : (setMuted b s).receivePolicy = s.receivePolicy := rfl
@[simp] theorem setMuted_portDirection (b : Bool) : (setMuted b s).portDirection = s.portDirection := rfl
@[simp] theorem setMuted_outputOnly (b : Bool) : (setMuted b s).outputOnly = s.outputOnly := rfl
@[simp] theorem setMuted_outputPeriodUs (b : Bool) : (setMuted b s).outputPeriodUs = s.outputPeriodUs := rfl
@[simp] theorem setMuted_outputElapsedUs (b : Bool) : (setMuted b s).outputElapsedUs = s.outputElapsedUs := rfl
@[simp] theorem setMuted_outputLength (b : Bool) : (setMuted b s).outputLength = s.outputLength := rfl
@[simp] theorem setMuted_config (b : Bool) : (setMuted b s).config = s.config := rfl
@[simp] theorem setMuted_rdmDiscoveryRunning (b : Bool) : (setMuted b s).rdmDiscoveryRunning = s.rdmDiscoveryRunning := rfl
@[simp] theorem setMuted_rdmIsMuted (b : Bool) : (setMuted b s).rdmIsMuted = b := rfl
@[simp] theorem setMuted_deadline (b : Bool) : (setMuted b s).deadline = s.deadline := rfl
@[simp] theorem setMuted_dmxBuf (b : Bool) : (setMuted b s).dmxBuf = s.dmxBuf := rfl
@[simp] theorem setMuted_cosShadow (b : Bool) : (setMuted b s).cosShadow = s.cosShadow := rfl
@[simp] theorem setMuted_hostRx (b : Bool) : (setMuted b s).hostRx = s.hostRx := rfl
@[simp] theorem setMuted_hostTx (b : Bool) : (setMuted b s).hostTx = s.hostTx := rfl
@[simp] theorem setMuted_busRdm (b : Bool) : (setMuted b s).busRdm = s.busRdm := rfl
@[simp] theorem setMuted_busDmxFresh (b : Bool) : (setMuted b s).busDmxFresh = s.busDmxFresh := rfl
@[simp] theorem setMuted_busLog (b : Bool) : (setMuted b s).busLog = s.busLog := rfl
@[simp] theorem setMuted_clock (b : Bool) : (setMuted b s).clock = s.clock := rfl
@[simp] theorem setMuted_configLog (b : Bool) : (setMuted b s).configLog = s.configLog := rfl
@[simp] theorem setMuted_trace (b : Bool) : (setMuted b s).trace = s.trace := rfl

/-! ### armDeadline -/
@[simp] theorem armDeadline_codec : (armDeadline s).codec = s.codec := rfl
@[simp] theorem armDeadline_schedStarted : (armDeadline s).schedStarted = s.schedStarted := rfl
@[simp] theorem armDeadline_lastFire : (armDeadline s).lastFire = s.lastFire := rfl
@[simp] theorem armDeadline_nowE : (armDeadline s).nowE = s.nowE := rfl
@[simp] theorem armDeadline_pc : (armDeadline s).pc = s.pc := rfl
@[simp] theorem armDeadline_mode : (armDeadline s).mode = s.mode := rfl
@[simp] theorem armDeadline_receivePolicy : (armDeadline s).receivePolicy = s.receivePolicy := rfl
@[simp] theorem armDeadline_portDirection : (armDeadline s).portDirection = s.portDirection := rfl
@[simp] theorem armDeadline_outputOnly : (armDeadline s).outputOnly = s.outputOnly := rfl
@[simp] theorem armDeadline_outputPeriodUs : (armDeadline s).outputPeriodUs = s.outputPeriodUs := rfl
@[simp] theorem armDeadline_outputElapsedUs : (armDeadline s).outputElapsedUs = s.outputElapsedUs := rfl
@[simp] theorem armDeadline_outputLength : (armDeadline s).outputLength = s.outputLength := rfl
@[simp] theorem armDeadline_config : (armDeadline s).config = s.config := rfl
@[simp] theorem armDeadline_rdmDiscoveryRunning : (armDeadline s).rdmDiscoveryRunning = s.rdmDiscoveryRunning := rfl
@[simp] theorem armDeadline_rdmIsMuted : (armDeadline s).rdmIsMuted = s.rdmIsMuted := rfl
@[simp] theorem armDeadline_deadline : (armDeadline s).deadline = some s.clock := rfl
@[simp] theorem armDeadline_dmxBuf : (armDeadline s).dmxBuf = s.dmxBuf := rfl
@[simp] theorem armDeadline_cosShadow : (armDeadline s).cosShadow = s.cosShadow := rfl
@[simp] theorem armDeadline_hostRx : (armDeadline s).hostRx = s.hostRx := rfl
@[simp] theorem armDeadline_hostTx : (armDeadline s).hostTx = s.hostTx := rfl
@[simp] theorem armDeadline_busRdm : (armDeadline s).busRdm = s.busRdm := rfl
@[simp] theorem armDeadline_busDmxFresh : (armDeadline s).busDmxFresh = s.busDmxFresh := rfl
@[simp] theorem armDeadline_busLog : (armDeadline s).busLog = s.busLog := rfl
@[simp] theorem armDeadline_clock : (armDeadline s).clock = s.clock := rfl
@[simp] theorem armDeadline_configLog : (armDeadline s).configLog = s.configLog := rfl
@[simp] theorem armDeadline_trace : (armDeadline s).trace = s.trace := rfl

/-! ### disarmDeadline -/
@[simp] theorem disarmDeadline_codec : (disarmDeadline s).codec = s.codec := rfl
@[simp] theorem disarmDeadline_schedStarted : (disarmDeadline s).schedStarted = s.schedStarted := rfl
@[simp] theorem disarmDeadline_lastFire : (disarmDeadline s).lastFire = s.lastFire := rfl
@[simp] theorem disarmDeadline_nowE : (disarmDeadline s).nowE = s.nowE := rfl
@[simp] theorem disarmDeadline_pc : (disarmDeadline s).pc = s.pc := rfl
@[simp] theorem disarmDeadline_mode : (disarmDeadline s).mode = s.mode := rfl
@[simp] theorem disarmDeadline_receivePolicy : (disarmDeadline s).receivePolicy = s.receivePolicy := rfl
@[simp] theorem disarmDeadline_portDirection : (disarmDeadline s).portDirection = s.portDirection := rfl
@[simp] theorem disarmDeadline_outputOnly : (disarmDeadline s).outputOnly = s.outputOnly := rfl
@[simp] theorem disarmDeadline_outputPeriodUs : (disarmDeadline s).outputPeriodUs = s.outputPeriodUs := rfl
@[simp] theorem disarmDeadline_outputElapsedUs : (disarmDeadline s).outputElapsedUs = s.outputElapsedUs := rfl
@[simp] theorem disarmDeadline_outputLength : (disarmDeadline s).outputLength = s.outputLength := rfl
@[simp] theorem disarmDeadline_config : (disarmDeadline s).config = s.config := rfl
@[simp] theorem disarmDeadline_rdmDiscoveryRunning : (disarmDeadline s).rdmDiscoveryRunning = s.rdmDiscoveryRunning := rfl
@[simp] theorem disarmDeadline_rdmIsMuted : (disarmDeadline s).rdmIsMuted = s.rdmIsMuted := rfl
@[simp] theorem disarmDeadline_deadline : (disarmDeadline s).deadline = none := rfl
@[simp] theorem disarmDeadline_dmxBuf : (disarmDeadline s).dmxBuf = s.dmxBuf := rfl
@[simp] theorem disarmDeadline_cosShadow : (disarmDeadline s).cosShadow = s.cosShadow := rfl
@[simp] theorem disarmDeadline_hostRx : (disarmDeadline s).hostRx = s.hostRx := rfl
@[simp] theorem disarmDeadline_hostTx : (disarmDeadline s).hostTx = s.hostTx := rfl
@[simp] theorem disarmDeadline_busRdm : (disarmDeadline s).busRdm = s.busRdm := rfl
@[simp] theorem disarmDeadline_busDmxFresh : (disarmDeadline s).busDmxFresh = s.busDmxFresh := rfl
@[simp] theorem disarmDeadline_busLog : (disarmDeadline s).busLog = s.busLog := rfl
@[simp] theorem disarmDeadline_clock : (disarmDeadline s).clock = s.clock := rfl
@[simp] theorem disarmDeadline_configLog : (disarmDeadline s).configLog = s.configLog := rfl
@[simp] theorem disarmDeadline_trace : (disarmDeadline s).trace = s.trace := rfl

/-! ### storeConfig -/
@[simp] theorem storeConfig_codec (P : Params) (c : WidgetConfig) : (storeConfig P c s).codec = s.codec := rfl
@[simp] theorem storeConfig_schedStarted (P : Params) (c : WidgetConfig) : (storeConfig P c s).schedStarted = s.schedStarted := rfl
@[simp] theorem storeConfig_lastFire (P : Params) (c : WidgetConfig) : (storeConfig P c s).lastFire = s.lastFire := rfl
@[simp] theorem storeConfig_nowE (P : Params) (c : WidgetConfig) : (storeConfig P c s).nowE = s.nowE := rfl
@[simp] theorem storeConfig_pc (P : Params) (c : WidgetConfig) : (storeConfig P c s).pc = s.pc := rfl
@[simp] theorem storeConfig_mode (P : Params) (c : WidgetConfig) : (storeConfig P c s).mode = s.mode := rfl
@[simp] theorem storeConfig_receivePolicy (P : Params) (c : WidgetConfig) : (storeConfig P c s).receivePolicy = s.receivePolicy := rfl
@[simp] theorem storeConfig_portDirection (P : Params) (c : WidgetConfig) : (storeConfig P c s).portDirection = s.portDirection := rfl
@[simp] theorem storeConfig_outputOnly (P : Params) (c : WidgetConfig) : (storeConfig P c s).outputOnly = s.outputOnly := rfl
@[simp] theorem storeConfig_outputPeriodUs (P : Params) (c : WidgetConfig) : (storeConfig P c s).outputPeriodUs = P.periodOf c := rfl
@[simp] theorem storeConfig_outputElapsedUs (P : Params) (c : WidgetConfig) : (storeConfig P c s).outputElapsedUs = s.outputElapsedUs := rfl
@[simp] theorem storeConfig_outputLength (P : Params) (c : WidgetConfig) : (storeConfig P c s).outputLength = s.outputLength := rfl
@[simp] theorem storeConfig_config (P : Params) (c : WidgetConfig) : (storeConfig P c s).config = c := rfl
@[simp] theorem storeConfig_rdmDiscoveryRunning (P : Params) (c : WidgetConfig) : (storeConfig P c s).rdmDiscoveryRunning = s.rdmDiscoveryRunning := rfl
@[simp] theorem storeConfig_rdmIsMuted (P : Params) (c : WidgetConfig) : (storeConfig P c s).rdmIsMuted = s.rdmIsMuted := rfl
@[simp] theorem storeConfig_deadline (P : Params) (c : WidgetConfig) : (storeConfig P c s).deadline = s.deadline := rfl
@[simp] theorem storeConfig_dmxBuf (P : Params) (c : WidgetConfig) : (storeConfig P c s).dmxBuf = s.dmxBuf := rfl
@[simp] theorem storeConfig_cosShadow (P : Params) (c : WidgetConfig) : (storeConfig P c s).cosShadow = s.cosShadow := rfl
@[simp] theorem storeConfig_hostRx (P : Params) (c : WidgetConfig) : (storeConfig P c s).hostRx = s.hostRx := rfl
@[simp] theorem storeConfig_hostTx (P : Params) (c : WidgetConfig) : (storeConfig P c s).hostTx = s.hostTx := rfl
@[simp] theorem storeConfig_busRdm (P : Params) (c : WidgetConfig) : (storeConfig P c s).busRdm = s.busRdm := rfl
@[simp] theorem storeConfig_busDmxFresh (P : Params) (c : WidgetConfig) : (storeConfig P c s).busDmxFresh = s.busDmxFresh := rfl
@[simp] theorem storeConfig_busLog (P : Params) (c : WidgetConfig) : (storeConfig P c s).busLog = s.busLog := rfl
@[simp] theorem storeConfig_clock (P : Params) (c : WidgetConfig) : (storeConfig P c s).clock = s.clock := rfl
@[simp] theorem storeConfig_configLog (P : Params) (c : WidgetConfig) : (storeConfig P c s).configLog = s.configLog ++ [c] := rfl
@[simp] theorem storeConfig_trace (P : Params) (c : WidgetConfig) : (storeConfig P c s).trace = s.trace := rfl

/-! ### recordOutput -/
@[simp] theorem recordOutput_codec (P : Params) (p : List Byte) : (recordOutput P p s).codec = s.codec := rfl
@[simp] theorem recordOutput_schedStarted (P : Params) (p : List Byte) : (recordOutput P p s).schedStarted = s.schedStarted := rfl
@[simp] theorem recordOutput_lastFire (P : Params) (p : List Byte) : (recordOutput P p s).lastFire = s.lastFire := rfl
@[simp] theorem recordOutput_nowE (P : Params) (p : List Byte) : (recordOutput P p s).nowE = s.nowE := rfl
@[simp] theorem recordOutput_pc (P : Params) (p : List Byte) : (recordOutput P p s).pc = s.pc := rfl
@[simp] theorem recordOutput_mode (P : Params) (p : List Byte) : (recordOutput P p s).mode = s.mode := rfl
@[simp] theorem recordOutput_receivePolicy (P : Params) (p : List Byte) : (recordOutput P p s).receivePolicy = s.receivePolicy := rfl
@[simp] theorem recordOutput_portDirection (P : Params) (p : List Byte) : (recordOutput P p s).portDirection = s.portDirection := rfl
@[simp] theorem recordOutput_outputOnly (P : Params) (p : List Byte) : (recordOutput P p s).outputOnly = s.outputOnly := rfl
@[simp] theorem recordOutput_outputPeriodUs (P : Params) (p : List Byte) : (recordOutput P p s).outputPeriodUs = s.outputPeriodUs := rfl
@[simp] theorem recordOutput_outputElapsedUs (P : Params) (p : List Byte) : (recordOutput P p s).outputElapsedUs = s.clock := rfl
@[simp] theorem recordOutput_outputLength (P : Params) (p : List Byte) : (recordOutput P p s).outputLength = outputCount P p := rfl
@[simp] theorem recordOutput_config (P : Params) (p : List Byte) : (recordOutput P p s).config = s.config := rfl
@[simp] theorem recordOutput_rdmDiscoveryRunning (P : Params) (p : List Byte) : (recordOutput P p s).rdmDiscoveryRunning = s.rdmDiscoveryRunning := rfl
@[simp] theorem recordOutput_rdmIsMuted (P : Params) (p : List Byte) : (recordOutput P p s).rdmIsMuted = s.rdmIsMuted := rfl
@[simp] theorem recordOutput_deadline (P : Params) (p : List Byte) : (recordOutput P p s).deadline = s.deadline := rfl
@[simp] theorem recordOutput_dmxBuf (P : Params) (p : List Byte) : (recordOutput P p s).dmxBuf = copySlots P s.dmxBuf p := rfl
@[simp] theorem recordOutput_cosShadow (P : Params) (p : List Byte) : (recordOutput P p s).cosShadow = s.cosShadow := rfl
@[simp] theorem recordOutput_hostRx (P : Params) (p : List Byte) : (recordOutput P p s).hostRx = s.hostRx := rfl
@[simp] theorem recordOutput_hostTx (P : Params) (p : List Byte) : (recordOutput P p s).hostTx = s.hostTx := rfl
@[simp] theorem recordOutput_busRdm (P : Params) (p : List Byte) : (recordOutput P p s).busRdm = s.busRdm := rfl
@[simp] theorem recordOutput_busDmxFresh (P : Params) (p : List Byte) : (recordOutput P p s).busDmxFresh = s.busDmxFresh := rfl
@[simp] theorem recordOutput_busLog (P : Params) (p : List Byte) : (recordOutput P p s).busLog = s.busLog := rfl
@[simp] theorem recordOutput_clock (P : Params) (p : List Byte) : (recordOutput P p s).clock = s.clock := rfl
@[simp] theorem recordOutput_configLog (P : Params) (p : List Byte) : (recordOutput P p s).configLog = s.configLog := rfl
@[simp] theorem recordOutput_trace (P : Params) (p : List Byte) : (recordOutput P p s).trace = s.trace := rfl

/-! ### zeroBuffers -/
@[simp] theorem zeroBuffers_codec (P : Params) : (zeroBuffers P s).codec = s.codec := rfl
@[simp] theorem zeroBuffers_schedStarted (P : Params) : (zeroBuffers P s).schedStarted = s.schedStarted := rfl
@[simp] theorem zeroBuffers_lastFire (P : Params) : (zeroBuffers P s).lastFire = s.lastFire := rfl
@[simp] theorem zeroBuffers_nowE (P : Params) : (zeroBuffers P s).nowE = s.nowE := rfl
@[simp] theorem zeroBuffers_pc (P : Params) : (zeroBuffers P s).pc = s.pc := rfl
@[simp] theorem zeroBuffers_mode (P : Params) : (zeroBuffers P s).mode = s.mode := rfl
@[simp] theorem zeroBuffers_receivePolicy (P : Params) : (zeroBuffers P s).receivePolicy = s.receivePolicy := rfl
@[simp] theorem zeroBuffers_portDirection (P : Params) : (zeroBuffers P s).portDirection = s.portDirection := rfl
@[simp] theorem zeroBuffers_outputOnly (P : Params) : (zeroBuffers P s).outputOnly = s.outputOnly := rfl
@[simp] theorem zeroBuffers_outputPeriodUs (P : Params) : (zeroBuffers P s).outputPeriodUs = s.outputPeriodUs := rfl
@[simp] theorem zeroBuffers_outputElapsedUs (P : Params) : (zeroBuffers P s).outputElapsedUs = s.outputElapsedUs := rfl
@[simp] theorem zeroBuffers_outputLength (P : Params) : (zeroBuffers P s).outputLength = s.outputLength := rfl
@[simp] theorem zeroBuffers_config (P : Params) : (zeroBuffers P s).config = s.config := rfl
@[simp] theorem zeroBuffers_rdmDiscoveryRunning (P : Params) : (zeroBuffers P s).rdmDiscoveryRunning = s.rdmDiscoveryRunning := rfl
@[simp] theorem zeroBuffers_rdmIsMuted (P : Params) : (zeroBuffers P s).rdmIsMuted = s.rdmIsMuted := rfl
@[simp] theorem zeroBuffers_deadline (P : Params) : (zeroBuffers P s).deadline = s.deadline := rfl
@[simp] theorem zeroBuffers_dmxBuf (P : Params) : (zeroBuffers P s).dmxBuf = List.replicate P.dmxBufLen 0 := rfl
@[simp] theorem zeroBuffers_cosShadow (P : Params) : (zeroBuffers P s).cosShadow = List.replicate P.dmxBufLen 0 := rfl
@[simp] theorem zeroBuffers_hostRx (P : Params) : (zeroBuffers P s).hostRx = s.hostRx := rfl
@[simp] theorem zeroBuffers_hostTx (P : Params) : (zeroBuffers P s).hostTx = s.hostTx := rfl
@[simp] theorem zeroBuffers_busRdm (P : Params) : (zeroBuffers P s).busRdm = s.busRdm := rfl
@[simp] theorem zeroBuffers_busDmxFresh (P : Params) : (zeroBuffers P s).busDmxFresh = s.busDmxFresh := rfl
@[simp] theorem zeroBuffers_busLog (P : Params) : (zeroBuffers P s).busLog = s.busLog := rfl
@[simp] theorem zeroBuffers_clock (P : Params) : (zeroBuffers P s).clock = s.clock := rfl
@[simp] theorem zeroBuffers_configLog (P : Params) : (zeroBuffers P s).configLog = s.configLog := rfl
@[simp] theorem zeroBuffers_trace (P : Params) : (zeroBuffers P s).trace = s.trace := rfl

/-! ### pumpSend -/
@[simp] theorem pumpSend_codec : (pumpSend s).codec = s.codec := rfl
@[simp] theorem pumpSend_schedStarted : (pumpSend s).schedStarted = s.schedStarted := rfl
@[simp] theorem pumpSend_lastFire : (pumpSend s).lastFire = s.lastFire := rfl
@[simp] theorem pumpSend_nowE : (pumpSend s).nowE = s.nowE := rfl
@[simp] theorem pumpSend_pc : (pumpSend s).pc = s.pc := rfl
@[simp] theorem pumpSend_mode : (pumpSend s).mode = s.mode := rfl
@[simp] theorem pumpSend_receivePolicy : (pumpSend s).receivePolicy = s.receivePolicy := rfl
@[simp] theorem pumpSend_portDirection : (pumpSend s).portDirection = s.portDirection := rfl
@[simp] theorem pumpSend_outputOnly : (pumpSend s).outputOnly = s.outputOnly := rfl
@[simp] theorem pumpSend_outputPeriodUs : (pumpSend s).outputPeriodUs = s.outputPeriodUs := rfl
@[simp] theorem pumpSend_outputElapsedUs : (pumpSend s).outputElapsedUs = s.outputElapsedUs + s.outputPeriodUs := rfl
@[simp] theorem pumpSend_outputLength : (pumpSend s).outputLength = s.outputLength := rfl
@[simp] theorem pumpSend_config : (pumpSend s).config = s.config := rfl
@[simp] theorem pumpSend_rdmDiscoveryRunning : (pumpSend s).rdmDiscoveryRunning = s.rdmDiscoveryRunning := rfl
@[simp] theorem pumpSend_rdmIsMuted : (pumpSend s).rdmIsMuted = s.rdmIsMuted := rfl
@[simp] theorem pumpSend_deadline : (pumpSend s).deadline = s.deadline := rfl
@[simp] theorem pumpSend_dmxBuf : (pumpSend s).dmxBuf = s.dmxBuf := rfl
@[simp] theorem pumpSend_cosShadow : (pumpSend s).cosShadow = s.cosShadow := rfl
@[simp] theorem pumpSend_hostRx : (pumpSend s).hostRx = s.hostRx := rfl
@[simp] theorem pumpSend_hostTx : (pumpSend s).hostTx = s.hostTx := rfl
@[simp] theorem pumpSend_busRdm : (pumpSend s).busRdm = s.busRdm := rfl
@[simp] theorem pumpSend_busDmxFresh : (pumpSend s).busDmxFresh = s.busDmxFresh := rfl
@[simp] theorem pumpSend_busLog : (pumpSend s).busLog = s.busLog ++ [.send (memRead s.dmxBuf 0 s.outputLength)] := rfl
@[simp] theorem pumpSend_clock : (pumpSend s).clock = s.clock := rfl
@[simp] theorem pumpSend_configLog : (pumpSend s).configLog = s.configLog := rfl
@[simp] theorem pumpSend_trace : (pumpSend s).trace = s.trace := rfl

/-! ### sampleEventClock -/
@[simp] theorem sampleEventClock_codec : (sampleEventClock s).codec = s.codec := rfl
@[simp] theorem sampleEventClock_schedStarted : (sampleEventClock s).schedStarted = s.schedStarted := rfl
@[simp] theorem sampleEventClock_lastFire : (sampleEventClock s).lastFire = s.lastFire := rfl
@[simp] theorem sampleEventClock_nowE : (sampleEventClock s).nowE = s.clock := rfl
@[simp] theorem sampleEventClock_pc : (sampleEventClock s).pc = s.pc := rfl
@[simp] theorem sampleEventClock_mode : (sampleEventClock s).mode = s.mode := rfl
@[simp] theorem sampleEventClock_receivePolicy : (sampleEventClock s).receivePolicy = s.receivePolicy := rfl
@[simp] theorem sampleEventClock_portDirection : (sampleEventClock s).portDirection = s.portDirection := rfl
@[simp] theorem sampleEventClock_outputOnly : (sampleEventClock s).outputOnly = s.outputOnly := rfl
@[simp] theorem sampleEventClock_outputPeriodUs : (sampleEventClock s).outputPeriodUs = s.outputPeriodUs := rfl
@[simp] theorem sampleEventClock_outputElapsedUs : (sampleEventClock s).outputElapsedUs = s.outputElapsedUs := rfl
@[simp] theorem sampleEventClock_outputLength : (sampleEventClock s).outputLength = s.outputLength := rfl
@[simp] theorem sampleEventClock_config : (sampleEventClock s).config = s.config := rfl
@[simp] theorem sampleEventClock_rdmDiscoveryRunning : (sampleEventClock s).rdmDiscoveryRunning = s.rdmDiscoveryRunning := rfl
@[simp] theorem sampleEventClock_rdmIsMuted : (sampleEventClock s).rdmIsMuted = s.rdmIsMuted := rfl
@[simp] theorem sampleEventClock_deadline : (sampleEventClock s).deadline = s.deadline := rfl
@[simp] theorem sampleEventClock_dmxBuf : (sampleEventClock s).dmxBuf = s.dmxBuf := rfl
@[simp] theorem sampleEventClock_cosShadow : (sampleEventClock s).cosShadow = s.cosShadow := rfl
@[simp] theorem sampleEventClock_hostRx : (sampleEventClock s).hostRx = s.hostRx := rfl
@[simp] theorem sampleEventClock_hostTx : (sampleEventClock s).hostTx = s.hostTx := rfl
@[simp] theorem sampleEventClock_busRdm : (sampleEventClock s).busRdm = s.busRdm := rfl
@[simp] theorem sampleEventClock_busDmxFresh : (sampleEventClock s).busDmxFresh = s.busDmxFresh := rfl
@[simp] theorem sampleEventClock_busLog : (sampleEventClock s).busLog = s.busLog := rfl
@[simp] theorem sampleEventClock_clock : (sampleEventClock s).clock = s.clock := rfl
@[simp] theorem sampleEventClock_configLog : (sampleEventClock s).configLog = s.configLog := rfl
@[simp] theorem sampleEventClock_trace : (sampleEventClock s).trace = s.trace := rfl

/-! ### advanceLastFire -/
@[simp] theorem advanceLastFire_codec (j : Nat) (p : U64) : (advanceLastFire j p s).codec = s.codec := rfl
@[simp] theorem advanceLastFire_schedStarted (j : Nat) (p : U64) : (advanceLastFire j p s).schedStarted = s.schedStarted := rfl
@[simp] theorem advanceLastFire_lastFire (j : Nat) (p : U64) : (advanceLastFire j p s).lastFire = s.lastFire.set j (lastFireAt j s + p) := rfl
@[simp] theorem advanceLastFire_nowE (j : Nat) (p : U64) : (advanceLastFire j p s).nowE = s.nowE := rfl
@[simp] theorem advanceLastFire_pc (j : Nat) (p : U64) : (advanceLastFire j p s).pc = s.pc := rfl
@[simp] theorem advanceLastFire_mode (j : Nat) (p : U64) : (advanceLastFire j p s).mode = s.mode := rfl
@[simp] theorem advanceLastFire_receivePolicy (j : Nat) (p : U64) : (advanceLastFire j p s).receivePolicy = s.receivePolicy := rfl
@[simp] theorem advanceLastFire_portDirection (j : Nat) (p : U64) : (advanceLastFire j p s).portDirection = s.portDirection := rfl
@[simp] theorem advanceLastFire_outputOnly (j : Nat) (p : U64) : (advanceLastFire j p s).outputOnly = s.outputOnly := rfl
@[simp] theorem advanceLastFire_outputPeriodUs (j : Nat) (p : U64) : (advanceLastFire j p s).outputPeriodUs = s.outputPeriodUs := rfl
@[simp] theorem advanceLastFire_outputElapsedUs (j : Nat) (p : U64) : (advanceLastFire j p s).outputElapsedUs = s.outputElapsedUs := rfl
@[simp] theorem advanceLastFire_outputLength (j : Nat) (p : U64) : (advanceLastFire j p s).outputLength = s.outputLength := rfl
@[simp] theorem advanceLastFire_config (j : Nat) (p : U64) : (advanceLastFire j p s).config = s.config := rfl
@[simp] theorem advanceLastFire_rdmDiscoveryRunning (j : Nat) (p : U64) : (advanceLastFire j p s).rdmDiscoveryRunning = s.rdmDiscoveryRunning := rfl
@[simp] theorem advanceLastFire_rdmIsMuted (j : Nat) (p : U64) : (advanceLastFire j p s).rdmIsMuted = s.rdmIsMuted := rfl
@[simp] theorem advanceLastFire_deadline (j : Nat) (p : U64) : (advanceLastFire j p s).deadline = s.deadline := rfl
@[simp] theorem advanceLastFire_dmxBuf (j : Nat) (p : U64) : (advanceLastFire j p s).dmxBuf = s.dmxBuf := rfl
@[simp] theorem advanceLastFire_cosShadow (j : Nat) (p : U64) : (advanceLastFire j p s).cosShadow = s.cosShadow := rfl
@[simp] theorem advanceLastFire_hostRx (j : Nat) (p : U64) : (advanceLastFire j p s).hostRx = s.hostRx := rfl
@[simp] theorem advanceLastFire_hostTx (j : Nat) (p : U64) : (advanceLastFire j p s).hostTx = s.hostTx := rfl
@[simp] theorem advanceLastFire_busRdm (j : Nat) (p : U64) : (advanceLastFire j p s).busRdm = s.busRdm := rfl
@[simp] theorem advanceLastFire_busDmxFresh (j : Nat) (p : U64) : (advanceLastFire j p s).busDmxFresh = s.busDmxFresh := rfl
@[simp] theorem advanceLastFire_busLog (j : Nat) (p : U64) : (advanceLastFire j p s).busLog = s.busLog := rfl
@[simp] theorem advanceLastFire_clock (j : Nat) (p : U64) : (advanceLastFire j p s).clock = s.clock := rfl
@[simp] theorem advanceLastFire_configLog (j : Nat) (p : U64) : (advanceLastFire j p s).configLog = s.configLog := rfl
@[simp] theorem advanceLastFire_trace (j : Nat) (p : U64) : (advanceLastFire j p s).trace = s.trace := rfl

/-! ### schedInit -/
@[simp] theorem schedInit_codec (P : Params) : (schedInit P s).codec = s.codec := rfl
@[simp] theorem schedInit_schedStarted (P : Params) : (schedInit P s).schedStarted = true := rfl
@[simp] theorem schedInit_lastFire (P : Params) : (schedInit P s).lastFire = P.eventTable.map fun _ => s.clock := rfl
@[simp] theorem schedInit_nowE (P : Params) : (schedInit P s).nowE = s.nowE := rfl
@[simp] theorem schedInit_pc (P : Params) : (schedInit P s).pc = ⟨.poll, 0⟩ := rfl
@[simp] theorem schedInit_mode (P : Params) : (schedInit P s).mode = s.mode := rfl
@[simp] theorem schedInit_receivePolicy (P : Params) : (schedInit P s).receivePolicy = s.receivePolicy := rfl
@[simp] theorem schedInit_portDirection (P : Params) : (schedInit P s).portDirection = s.portDirection := rfl
@[simp] theorem schedInit_outputOnly (P : Params) : (schedInit P s).outputOnly = s.outputOnly := rfl
@[simp] theorem schedInit_outputPeriodUs (P : Params) : (schedInit P s).outputPeriodUs = s.outputPeriodUs := rfl
@[simp] theorem schedInit_outputElapsedUs (P : Params) : (schedInit P s).outputElapsedUs = s.outputElapsedUs := rfl
@[simp] theorem schedInit_outputLength (P : Params) : (schedInit P s).outputLength = s.outputLength := rfl
@[simp] theorem schedInit_config (P : Params) : (schedInit P s).config = s.config := rfl
@[simp] theorem schedInit_rdmDiscoveryRunning (P : Params) : (schedInit P s).rdmDiscoveryRunning = s.rdmDiscoveryRunning := rfl
@[simp] theorem schedInit_rdmIsMuted (P : Params) : (schedInit P s).rdmIsMuted = s.rdmIsMuted := rfl
@[simp] theorem schedInit_deadline (P : Params) : (schedInit P s).deadline = s.deadline := rfl
@[simp] theorem schedInit_dmxBuf (P : Params) : (schedInit P s).dmxBuf = s.dmxBuf := rfl
@[simp] theorem schedInit_cosShadow (P : Params) : (schedInit P s).cosShadow = s.cosShadow := rfl
@[simp] theorem schedInit_hostRx (P : Params) : (schedInit P s).hostRx = s.hostRx := rfl
@[simp] theorem schedInit_hostTx (P : Params) : (schedInit P s).hostTx = s.hostTx := rfl
@[simp] theorem schedInit_busRdm (P : Params) : (schedInit P s).busRdm = s.busRdm := rfl
@[simp] theorem schedInit_busDmxFresh (P : Params) : (schedInit P s).busDmxFresh = s.busDmxFresh := rfl
@[simp] theorem schedInit_busLog (P : Params) : (schedInit P s).busLog = s.busLog := rfl
@[simp] theorem schedInit_clock (P : Params) : (schedInit P s).clock = s.clock := rfl
@[simp] theorem schedInit_configLog (P : Params) : (schedInit P s).configLog = s.configLog := rfl
@[simp] theorem schedInit_trace (P : Params) : (schedInit P s).trace = s.trace := rfl

end

end Sys2Proof.Machine
end

