-- ==== Sys2Proof/Laws/Buffers.lean ====
section
/-! SUPPORT. The laws of the three buffers: a write keeps the length, a read after a write, and every operation that
writes a buffer keeps `Memory.wf` (20_memory.md R40). -/

namespace Sys2Proof.Machine

@[simp] theorem overlay_length (buf v : List Byte) : (overlay buf v).length = buf.length := by
  induction buf generalizing v with
  | nil => rfl
  | cons b bs ih => cases v <;> simp [overlay, ih]

@[simp] theorem memWrite_length (buf : List Byte) (i : Nat) (v : List Byte) : (memWrite buf i v).length = buf.length := by
  simp [memWrite]
  omega

@[simp] theorem copySlots_length (P : Params) (buf payload : List Byte) :
    (copySlots P buf payload).length = buf.length := by
  simp [copySlots]

/-- Reading one byte after laying bytes over the front of a buffer. -/
theorem byteAt_overlay (buf v : List Byte) (k : Nat) :
    byteAt (overlay buf v) k = if k < v.length ∧ k < buf.length then byteAt v k else byteAt buf k := by
  induction buf generalizing v k with
  | nil => simp [overlay]
  | cons b bs ih =>
    cases v with
    | nil => simp [overlay]
    | cons x xs =>
      cases k with
      | zero => simp [overlay, byteAt]
      | succ k =>
        simpa [overlay, byteAt] using ih xs k

/-- Read after write: the byte written inside the written range, the old byte outside it. -/
theorem byteAt_memWrite (buf v : List Byte) (i k : Nat) (hi : i ≤ buf.length) :
    byteAt (memWrite buf i v) k
      = if i ≤ k ∧ k < i + v.length ∧ k < buf.length then byteAt v (k - i) else byteAt buf k := by
  unfold memWrite
  by_cases hk : k < i
  · have : ¬ i ≤ k := by omega
    have hb : k < buf.length := by omega
    simp [this, byteAt, hk, hi, hb]
  · have hlen : (List.take i buf).length = i := by simp [hi]
    have e : byteAt (List.take i buf ++ overlay (List.drop i buf) v) k
        = byteAt (overlay (List.drop i buf) v) (k - i) := by
      simp only [byteAt, List.getD_eq_getElem?_getD]
      rw [List.getElem?_append_right (by omega), hlen]
    have d : byteAt (List.drop i buf) (k - i) = byteAt buf k := by
      simp only [byteAt, List.getD_eq_getElem?_getD, List.getElem?_drop]
      congr 2
      omega
    rw [e, byteAt_overlay, d]
    have : (k - i < v.length ∧ k - i < (List.drop i buf).length) ↔ (i ≤ k ∧ k < i + v.length ∧ k < buf.length) := by
      simp only [List.length_drop]
      omega
    simp only [this]

/-- R137: the slots copied are `DMX_BUF[1 .. n)`; every other byte keeps its value. -/
theorem byteAt_copySlots (P : Params) (buf payload : List Byte) (k : Nat) (hb : buf.length = P.dmxBufLen) :
    byteAt (copySlots P buf payload) k
      = if 1 ≤ k ∧ k < outputCount P payload then byteAt payload k else byteAt buf k := by
  rcases Nat.eq_zero_or_pos buf.length with h0 | h1
  · obtain rfl := List.eq_nil_of_length_eq_zero h0
    have hn : outputCount P payload = 0 := by simp [outputCount, ← hb]
    simp [copySlots, memWrite, overlay, hn]
  have hl : (slice payload 1 (outputCount P payload - 1)).length = outputCount P payload - 1 := by
    simp [slice, outputCount]
    omega
  have hle : outputCount P payload ≤ buf.length := by simp [outputCount, hb]
  unfold copySlots
  rw [byteAt_memWrite _ _ _ _ h1, hl]
  by_cases c : 1 ≤ k ∧ k < outputCount P payload
  · have c' : 1 ≤ k ∧ k < 1 + (outputCount P payload - 1) ∧ k < buf.length := by omega
    rw [if_pos c, if_pos c']
    simp only [slice, byteAt, List.getD_eq_getElem?_getD, List.getElem?_take, List.getElem?_drop]
    rw [if_pos (by omega)]
    congr 2
    omega
  · rw [if_neg c, if_neg (by omega)]

/-- One decoder byte keeps the length of `RX_BUF`. -/
@[simp] theorem decStep_rxBuf_length (P : Params) (c : Codec) (b : Byte) :
    (decStep P c b).1.rxBuf.length = c.rxBuf.length := by
  unfold decStep
  split
  case h_5 =>
    dsimp only
    split <;> simp
  case h_1 => split <;> rfl
  case h_6 => (repeat' split) <;> rfl
  all_goals rfl

/-- A decoder call keeps the length of `RX_BUF`. -/
@[simp] theorem decodeBytes_rxBuf_length (P : Params) (c : Codec) (bs : List Byte) :
    (decodeBytes P c bs).codec.rxBuf.length = c.rxBuf.length := by
  induction bs generalizing c with
  | nil => rfl
  | cons b bs ih =>
    have h := decStep_rxBuf_length P c b
    unfold decodeBytes
    split
    · next c' e => rw [ih, ← h, e]
    · next c' ev e hne => rw [← h, hne]

/-- The buffers at reset have their lengths. -/
theorem reset_memory_wf (P : Params) : Memory.wf P (State.resetWith P) := by
  simp [Memory.wf, State.resetWith, Codec.idle]

theorem recordOutput_memory_wf {P : Params} {s : State} (p : List Byte) (h : Memory.wf P s) :
    Memory.wf P (recordOutput P p s) := by
  simpa [Memory.wf] using h

theorem zeroBuffers_memory_wf {P : Params} {s : State} (h : Memory.wf P s) : Memory.wf P (zeroBuffers P s) := by
  simpa [Memory.wf] using h.1

theorem takeDecoded_memory_wf {P : Params} {s : State} (bs : List Byte) (h : Memory.wf P s) :
    Memory.wf P (takeDecoded (decodeBytes P s.codec bs) s) := by
  simpa [Memory.wf] using h

theorem envMove_memory_wf {P : Params} {s t : State} {m : EnvMove} (h : Memory.wf P s) (e : envMove P s m = some t) :
    Memory.wf P t := by
  cases m <;> simp only [envMove] at e
  · cases e; exact h
  · split at e <;> cases e; exact h
  · split at e <;> cases e; exact ⟨h.1, ‹_›, h.2.2⟩
  · split at e <;> cases e; exact h

end Sys2Proof.Machine
end

