-- ==== Sys2Proof/Laws/Exec.lean ====
section
/-! SUPPORT. What each arm of `exec` calls, each true by rfl, and the values of the parameters with a default. -/

namespace Sys2Proof.Machine

theorem exec_getWidgetParams (payload : List Byte) (s : State) :
    exec (.getWidgetParams payload) s = .next (getWidgetParams Config.params s) := rfl
theorem exec_setWidgetParams (payload : List Byte) (s : State) :
    exec (.setWidgetParams payload) s = .next (setWidgetParams Config.params payload s) := rfl
theorem exec_outputOnlySendDmxPacket (payload : List Byte) (s : State) :
    exec (.outputOnlySendDmxPacket payload) s = .next (outputOnlySendDmxPacket Config.params payload s) := rfl
theorem exec_sendRdmPacket (payload : List Byte) (s : State) :
    exec (.sendRdmPacket payload) s = .next (sendRdmPacket Config.params payload s) := rfl
theorem exec_receiveDmxOnChange (payload : List Byte) (s : State) :
    exec (.receiveDmxOnChange payload) s = .next (receiveDmxOnChange Config.params payload s) := rfl
theorem exec_getWidgetSn (payload : List Byte) (s : State) :
    exec (.getWidgetSn payload) s = .next (getWidgetSn Config.params s) := rfl
theorem exec_sendRdmDiscoveryRequest (payload : List Byte) (s : State) :
    exec (.sendRdmDiscoveryRequest payload) s = .next (sendRdmDiscoveryRequest payload s) := rfl
theorem exec_manufacturerLabel (payload : List Byte) (s : State) :
    exec (.manufacturerLabel payload) s = .next (manufacturerLabel Config.params s) := rfl
theorem exec_getWidgetName (payload : List Byte) (s : State) :
    exec (.getWidgetName payload) s = .next (getWidgetName Config.params s) := rfl
theorem exec_unknown (label : Byte) (payload : List Byte) (s : State) :
    exec (.unknown label payload) s = .next (unknownLabel label s) := rfl
theorem exec_getWidgetParamsReply (s : State) :
    exec .getWidgetParamsReply s = .next (getWidgetParamsReply Config.params s) := rfl
theorem exec_receivedDmxPacketDmx (s : State) :
    exec .receivedDmxPacketDmx s = .next (receivedDmxPacketDmx Config.params s) := rfl
theorem exec_receivedDmxPacketRdm (packet : List Byte) (k : Nat) (s : State) :
    exec (.receivedDmxPacketRdm packet k) s = .next (receivedDmxPacketRdm Config.params packet k s) := rfl
theorem exec_receivedDmxCos (payload : List Byte) (s : State) :
    exec (.receivedDmxCos payload) s = .next (receivedDmxCos Config.params payload s) := rfl
theorem exec_getWidgetSnReply (s : State) :
    exec .getWidgetSnReply s = .next (getWidgetSnReply Config.params s) := rfl
theorem exec_rdmTimeout (s : State) :
    exec .rdmTimeout s = .next (rdmTimeout Config.params s) := rfl
theorem exec_manufacturerLabelReply (s : State) :
    exec .manufacturerLabelReply s = .next (manufacturerLabelReply Config.params s) := rfl
theorem exec_getWidgetNameReply (s : State) :
    exec .getWidgetNameReply s = .next (getWidgetNameReply Config.params s) := rfl
theorem exec_discUniqueBranch (o : RdmOperands) (s : State) :
    exec (.discUniqueBranch o) s = .next (discUniqueBranch Config.params (o.packet Config.params.rdm.discoveryCommand Config.params.rdm.discUniqueBranch) s) := rfl
theorem exec_discMute (o : RdmOperands) (s : State) :
    exec (.discMute o) s = .next (discMute Config.params (o.packet Config.params.rdm.discoveryCommand Config.params.rdm.discMute) s) := rfl
theorem exec_discUnMute (o : RdmOperands) (s : State) :
    exec (.discUnMute o) s = .next (discUnMute Config.params (o.packet Config.params.rdm.discoveryCommand Config.params.rdm.discUnMute) s) := rfl
theorem exec_discOther (paramId : U16) (o : RdmOperands) (s : State) :
    exec (.discOther paramId o) s = .next (discOther s) := rfl
theorem exec_getCommand (paramId : U16) (o : RdmOperands) (s : State) :
    exec (.getCommand paramId o) s = .next (localParam Config.params (o.packet Config.params.rdm.getCommand paramId).bytes s) := rfl
theorem exec_setCommand (paramId : U16) (o : RdmOperands) (s : State) :
    exec (.setCommand paramId o) s = .next (localParam Config.params (o.packet Config.params.rdm.setCommand paramId).bytes s) := rfl
theorem exec_discoveryCommandResponse (paramId : U16) (o : RdmOperands) (s : State) :
    exec (.discoveryCommandResponse paramId o) s = .next (discoveryResponseSeen Config.params (o.packet Config.params.rdm.discoveryCommandResponse paramId).bytes
      (forwardLength (o.packet Config.params.rdm.discoveryCommandResponse paramId)) s) := rfl
theorem exec_rdmOtherClass (commandClass : Byte) (paramId : U16) (o : RdmOperands) (s : State) :
    exec (.rdmOtherClass commandClass paramId o) s = .next (otherClass Config.params (o.packet commandClass paramId) s) := rfl
theorem exec_rawDiscoveryResponse (rest : List Byte) (s : State) :
    exec (.rawDiscoveryResponse rest) s = .next (discoveryResponseSeen Config.params (rawFirstByte :: rest) (rest.length + 1) s) := rfl
theorem exec_dubresp (s : State) :
    exec .dubresp s = .next (sendDubResponse Config.params s) := rfl
theorem exec_muteack (request : List Byte) (s : State) :
    exec (.muteack request) s = .next (sendMuteAck Config.params request s) := rfl
theorem exec_decode (s : State) :
    exec .decode s = .next (decodeCall Config.params s).2 := rfl
theorem exec_encode (label : Byte) (payload : List Byte) (s : State) :
    exec (.encode label payload) s = .next (emit Config.params label payload s) := rfl
theorem exec_schedInit (s : State) :
    exec .schedInit s = .next (schedInit Config.params s) := rfl
theorem exec_schedIteration (s : State) :
    exec .schedIteration s = schedIteration Config.params s := rfl
theorem exec_pollPass (s : State) :
    exec .pollPass s = .next (pollPass Config.params s) := rfl
theorem exec_eventPass (s : State) :
    exec .eventPass s = .next (eventPass Config.params s) := rfl
theorem exec_hostRx (s : State) :
    exec .hostRx s = .next (hostRx Config.params s) := rfl
theorem exec_rdmInDispatch (s : State) :
    exec .rdmInDispatch s = .next (rdmInDispatch Config.params s) := rfl
theorem exec_dmxOutPump (s : State) :
    exec .dmxOutPump s = .next (dmxOutPump s) := rfl
theorem exec_dmxInForward (s : State) :
    exec .dmxInForward s = .next (dmxInForward Config.params s) := rfl
theorem exec_changeOfState (s : State) :
    exec .changeOfState s = .next (changeOfState Config.params s) := rfl
theorem exec_rdmTimeoutCheck (s : State) :
    exec .rdmTimeoutCheck s = .next (rdmTimeoutCheck Config.params s) := rfl
theorem exec_timeoutPath (s : State) :
    exec .timeoutPath s = .next (timeoutPath Config.params s) := rfl
theorem exec_heartbeat (s : State) :
    exec .heartbeat s = .next (heartbeat Config.params s) := rfl
theorem exec_dispatch (f : Frame) (s : State) :
    exec (.dispatch f) s = .next (dispatch Config.params f s) := rfl
theorem exec_rdmTransmit (bytes : List Byte) (s : State) :
    exec (.rdmTransmit bytes) s = .next (rdmTransmit bytes s) := rfl
theorem exec_rdmEngine (packet : List Byte) (s : State) :
    exec (.rdmEngine packet) s = .next (rdmEngine Config.params packet s) := rfl
theorem exec_malformedMute (p : RdmPacket) (s : State) :
    exec (.malformedMute p) s = .next (malformedMute Config.params p s) := rfl
theorem exec_eventCheck {j : Nat} {period : U64} {a : Action} (h : Config.params.eventTable[j]? = some (period, a))
    (s : State) : exec (.eventCheck j) s = .next (checkEntry Config.params j period a s) := by
  simp only [exec, execEventCheck, h]
theorem exec_eventCheck_none {j : Nat} (h : Config.params.eventTable[j]? = none) (s : State) :
    exec (.eventCheck j) s = .fault (.noSuchEvent j) := by
  simp only [exec, execEventCheck, h]

/-- R112: the instruction of a table entry runs the entry's action. -/
theorem exec_action (a : Action) (s : State) : exec a.instr s = .next (runAction Config.params s a) := by
  cases a <;> rfl

/-- R66, R130: the instruction of a frame runs the handler its label selects. -/
theorem exec_hostOp (f : Frame) (s : State) (op : HostOp) :
    exec (op.instr f) s = .next (runHostOp Config.params f s op) := by
  cases op <;> rfl

@[simp] theorem params_cap : Config.params.cap = 600 := rfl
@[simp] theorem params_startByte : Config.params.startByte = 0x7E := rfl
@[simp] theorem params_endByte : Config.params.endByte = 0xE7 := rfl
@[simp] theorem params_rdmTimeoutUs : Config.params.rdmTimeoutUs = 1000000 := rfl
@[simp] theorem params_dmxSlots : Config.params.dmxSlots = 512 := rfl
@[simp] theorem params_dmxBufLen : Config.params.dmxBufLen = 513 := rfl
@[simp] theorem params_pollTable : Config.params.pollTable = Config.pollTable := rfl
@[simp] theorem params_eventTable : Config.params.eventTable = Config.eventTable := rfl
/-- The parameters the machine runs with keep every contract of the spec. -/
theorem params_wf : Config.params.Wf := by
  refine ⟨by refine ⟨?_, ?_, ?_, ?_, ?_⟩ <;> decide, rfl, ?_, ?_, fun c => ?_, fun shadow current => ⟨fun _ => ?_, ?_⟩⟩
  · exact List.length_take_le _ _
  · exact List.length_take_le _ _
  · exact List.length_take_le _ _
  · simp [Config.params]
  · intro payload h
    obtain ⟨q, -, rfl⟩ := List.mem_map.1 h
    exact List.length_take_le _ _

@[simp] theorem params_nackOnMalformedMute : Config.params.nackOnMalformedMute = false := rfl
@[simp] theorem params_suppressAckOnBroadcast : Config.params.suppressAckOnBroadcast = false := rfl
@[simp] theorem params_paramAccess (pkt : List Byte) : Config.params.paramAccess pkt = none := rfl
@[simp] theorem params_ackEnvelope (r d : List Byte) : Config.params.ackEnvelope r d = d := rfl

end Sys2Proof.Machine
end

