-- ==== Sys2Proof/Laws/Codec.lean ====
section
/-! SUPPORT. The framer: one lemma per state of `dec_step` (40_frame_codec.md R91 to R96), the two equations of a decoder
call (R97) and the length of a frame (R100). -/

namespace Sys2Proof.Machine

theorem decStep_hunt (P : Params) (c : Codec) (b : Byte) (h : c.decState = .hunt) :
    decStep P c b = (if b = P.startByte then ({ c with decState := .label }, .none) else (c, .none)) := by
  simp only [decStep, h]

theorem decStep_label (P : Params) (c : Codec) (b : Byte) (h : c.decState = .label) :
    decStep P c b = ({ c with rxLabel := b, decState := .lenLo }, .none) := by
  simp only [decStep, h]

theorem decStep_lenLo (P : Params) (c : Codec) (b : Byte) (h : c.decState = .lenLo) :
    decStep P c b = ({ c with rxLen := zext16 b, decState := .lenHi }, .none) := by
  simp only [decStep, h]

theorem decStep_lenHi (P : Params) (c : Codec) (b : Byte) (h : c.decState = .lenHi) :
    decStep P c b =
      ({ c with
          rxLen := c.rxLen ||| (zext16 b <<< 8)
          rxCnt := 0
          decState := if 0 < min (c.rxLen ||| (zext16 b <<< 8)).toNat P.cap then .payload else .endSearch }, .none) := by
  simp only [decStep, h]
  rfl

theorem decStep_payload (P : Params) (c : Codec) (b : Byte) (h : c.decState = .payload) :
    decStep P c b =
      ({ c with
          rxBuf := c.rxBuf.set c.rxCnt b
          rxCnt := c.rxCnt + 1
          decState := if c.rxCnt + 1 = c.stored P then .endSearch else .payload }, .none) := by
  simp only [decStep, h]
  split
  · next k => rw [if_pos (show c.rxCnt + 1 = c.stored P from k)]
  · next k => rw [if_neg (show ¬ c.rxCnt + 1 = c.stored P from k)]

theorem decStep_endSearch (P : Params) (c : Codec) (b : Byte) (h : c.decState = .endSearch) :
    decStep P c b =
      (if b = P.endByte then
          ({ c with decState := .hunt }, .frame { label := c.rxLabel, payload := c.rxBuf.take (c.stored P) })
        else if P.cap ≤ c.rxCnt then ({ c with decState := .hunt }, .discard c.rxLabel c.rxLen)
        else ({ c with rxCnt := c.rxCnt + 1 }, .none)) := by
  simp only [decStep, h]

theorem decodeBytes_nil (P : Params) (c : Codec) :
    decodeBytes P c [] = { codec := c, rest := [], event := .none } := rfl

/-- A byte whose step answers no event is consumed and the call goes on. -/
theorem decodeBytes_cons_none {P : Params} {c c' : Codec} {b : Byte} (bs : List Byte)
    (h : decStep P c b = (c', .none)) : decodeBytes P c (b :: bs) = decodeBytes P c' bs := by
  simp only [decodeBytes, h]

/-- A byte whose step answers a frame ends the call. -/
theorem decodeBytes_cons_frame {P : Params} {c c' : Codec} {b : Byte} {f : Frame} (bs : List Byte)
    (h : decStep P c b = (c', .frame f)) :
    decodeBytes P c (b :: bs) = { codec := c', rest := bs, event := .frame f } := by
  simp only [decodeBytes, h]

/-- A byte whose step discards ends the call. -/
theorem decodeBytes_cons_discard {P : Params} {c c' : Codec} {b : Byte} {l : Byte} {n : U16} (bs : List Byte)
    (h : decStep P c b = (c', .discard l n)) :
    decodeBytes P c (b :: bs) = { codec := c', rest := bs, event := .discard l n } := by
  simp only [decodeBytes, h]

/-- R100: a frame has the bytes of its payload, cut at CAP, and five more. -/
@[simp] theorem encodeFrame_length (P : Params) (label : Byte) (payload : List Byte) :
    (encodeFrame P label payload).length = min payload.length P.cap + 5 := by
  simp [encodeFrame]

/-- R101: what ENCODE cuts off has no effect. -/
theorem encodeFrame_take (P : Params) (label : Byte) (payload : List Byte) :
    encodeFrame P label (payload.take P.cap) = encodeFrame P label payload := by
  have h : min (payload.take P.cap).length P.cap = min payload.length P.cap := by
    simp
    omega
  have h2 : (payload.take P.cap).take (min payload.length P.cap) = payload.take (min payload.length P.cap) := by
    rw [List.take_take]
    congr 1
    omega
  simp only [encodeFrame, h, h2]

/-- R95: from PAYLOAD, exactly the bytes still missing: they are stored at `RX_BUF[RX_CNT ..)` and the framer is in
END_SEARCH with `RX_CNT` the stored length. -/
theorem decodeBytes_payload (P : Params) (rest q : List Byte) (c : Codec) (hs : c.decState = .payload)
    (hl : q.length + c.rxCnt = c.stored P) (h0 : 0 < q.length) (hb : c.rxBuf.length = P.cap) :
    ∃ c', decodeBytes P c (q ++ rest) = decodeBytes P c' rest ∧ c'.decState = .endSearch ∧ c'.rxLen = c.rxLen
      ∧ c'.rxLabel = c.rxLabel ∧ c'.rxCnt = c.stored P
      ∧ c'.rxBuf = c.rxBuf.take c.rxCnt ++ q ++ c.rxBuf.drop (c.rxCnt + q.length) := by
  induction q generalizing c with
  | nil => simp at h0
  | cons b q ih =>
    simp only [List.length_cons] at hl
    have hle : c.stored P ≤ P.cap := Nat.min_le_right _ _
    have hset : c.rxBuf.set c.rxCnt b = c.rxBuf.take c.rxCnt ++ b :: c.rxBuf.drop (c.rxCnt + 1) := by
      rw [List.set_eq_take_append_cons_drop, if_pos (by omega)]
    have e := decStep_payload P c b hs
    by_cases hq : q = []
    · subst hq
      simp only [List.length_nil] at hl
      rw [if_pos (by omega)] at e
      refine ⟨{ c with rxBuf := c.rxBuf.set c.rxCnt b, rxCnt := c.rxCnt + 1, decState := .endSearch },
        by rw [List.singleton_append, decodeBytes_cons_none _ e], rfl, rfl, rfl, ?_, ?_⟩
      · dsimp only
        omega
      · dsimp only
        rw [hset]
        simp
    · have hq0 : 0 < q.length := List.length_pos_of_ne_nil hq
      rw [if_neg (by omega)] at e
      obtain ⟨c', k1, k2, k3, k4, k5, k6⟩ :=
        ih { c with rxBuf := c.rxBuf.set c.rxCnt b, rxCnt := c.rxCnt + 1, decState := .payload } rfl
          (show q.length + (c.rxCnt + 1) = c.stored P by omega) hq0 (by simpa using hb)
      refine ⟨c', by rw [List.cons_append, decodeBytes_cons_none _ e, k1], k2, k3, k4, k5, ?_⟩
      rw [k6]
      dsimp only
      rw [hset]
      have l1 : (List.take c.rxCnt c.rxBuf).length = c.rxCnt := by
        simp
        omega
      have e1 : c.rxCnt + 1 - c.rxCnt = 1 := by omega
      have e2 : c.rxCnt + 1 + q.length - c.rxCnt = q.length + 1 := by omega
      simp only [List.take_append, List.drop_append, l1, List.append_assoc, List.length_cons]
      rw [e1, e2]
      simp [List.take_take, List.drop_take]
      rw [show c.rxCnt - (c.rxCnt + 1 + q.length) = 0 by omega]
      simp
      congr 1
      omega

/-- R95: from PAYLOAD, fewer bytes than are missing answer no event. -/
theorem decodeBytes_payload_short (P : Params) (bs : List Byte) (c : Codec) (hs : c.decState = .payload)
    (hl : bs.length + c.rxCnt < c.stored P) : (decodeBytes P c bs).event = .none := by
  induction bs generalizing c with
  | nil => rfl
  | cons b bs ih =>
    simp only [List.length_cons] at hl
    have e := decStep_payload P c b hs
    rw [if_neg (by omega)] at e
    rw [decodeBytes_cons_none _ e]
    exact ih { c with rxBuf := c.rxBuf.set c.rxCnt b, rxCnt := c.rxCnt + 1, decState := .payload } rfl
      (show bs.length + (c.rxCnt + 1) < c.stored P by omega)

/-- What a decoder call leaves of the state: the framer, `HOST_RX` and, after a discard, one condition. -/
theorem decodeCall_state (P : Params) (s : State) :
    (decodeCall P s).2 = takeDecoded (decodeBytes P s.codec s.hostRx) s
      ∨ ∃ l n, (decodeBytes P s.codec s.hostRx).event = .discard l n
        ∧ (decodeCall P s).2 = raise (.malformedFrame l n) (takeDecoded (decodeBytes P s.codec s.hostRx) s) := by
  simp only [decodeCall]
  cases h : (decodeBytes P s.codec s.hostRx).event with
  | none => exact .inl rfl
  | frame f => exact .inl rfl
  | discard l n => exact .inr ⟨l, n, rfl, rfl⟩

end Sys2Proof.Machine
end

