-- ==== Sys2Proof/Laws/Actions.lean ====
section
/-! SUPPORT. What an action cannot touch, once for all: the fields only the Scheduler or the environment writes; and what
a step can do (41_scheduler.md R113). -/

namespace Sys2Proof.Machine

/-- The fields that no action writes: the Scheduler's (R14, R15, R16), the mode (R17) and the clock (R119). -/
def SchedulerFieldsKept (s t : State) : Prop :=
  t.schedStarted = s.schedStarted ∧ t.lastFire = s.lastFire ∧ t.nowE = s.nowE ∧ t.pc = s.pc ∧ t.mode = s.mode
    ∧ t.clock = s.clock

theorem SchedulerFieldsKept.refl (s : State) : SchedulerFieldsKept s s := ⟨rfl, rfl, rfl, rfl, rfl, rfl⟩

theorem SchedulerFieldsKept.trans {s t u : State} (h : SchedulerFieldsKept s t) (k : SchedulerFieldsKept t u) :
    SchedulerFieldsKept s u :=
  ⟨k.1.trans h.1, k.2.1.trans h.2.1, k.2.2.1.trans h.2.2.1, k.2.2.2.1.trans h.2.2.2.1,
    k.2.2.2.2.1.trans h.2.2.2.2.1, k.2.2.2.2.2.trans h.2.2.2.2.2⟩

theorem raise_kept (c : Condition) (s : State) : SchedulerFieldsKept s (raise c s) := ⟨rfl, rfl, rfl, rfl, rfl, rfl⟩
theorem emit_kept (P : Params) (l : Byte) (p : List Byte) (s : State) : SchedulerFieldsKept s (emit P l p s) :=
  ⟨rfl, rfl, rfl, rfl, rfl, rfl⟩
theorem busSend_kept (bs : List Byte) (s : State) : SchedulerFieldsKept s (busSend bs s) := ⟨rfl, rfl, rfl, rfl, rfl, rfl⟩
theorem setDirection_kept (d : Direction) (f : Bool) (s : State) : SchedulerFieldsKept s (setDirection d f s) :=
  ⟨rfl, rfl, rfl, rfl, rfl, rfl⟩
theorem disarmDeadline_kept (s : State) : SchedulerFieldsKept s (disarmDeadline s) := ⟨rfl, rfl, rfl, rfl, rfl, rfl⟩
theorem setMuted_kept (b : Bool) (s : State) : SchedulerFieldsKept s (setMuted b s) := ⟨rfl, rfl, rfl, rfl, rfl, rfl⟩

theorem timeoutPath_kept (P : Params) (s : State) : SchedulerFieldsKept s (timeoutPath P s) :=
  ((raise_kept _ s).trans (emit_kept P _ _ _)).trans (disarmDeadline_kept _)

theorem discoveryResponseSeen_kept (P : Params) (pkt : List Byte) (k : Nat) (s : State) :
    SchedulerFieldsKept s (discoveryResponseSeen P pkt k s) :=
  (emit_kept P _ _ s).trans (timeoutPath_kept P _)

theorem otherClass_kept (P : Params) (v : RdmPacket) (s : State) : SchedulerFieldsKept s (otherClass P v s) :=
  (emit_kept P _ _ s).trans (disarmDeadline_kept _)

theorem rdmTransmit_kept (bs : List Byte) (s : State) : SchedulerFieldsKept s (rdmTransmit bs s) := by
  simp [SchedulerFieldsKept, rdmTransmit]

theorem setReceivePolicy_kept (payload : List Byte) (s : State) : SchedulerFieldsKept s (setReceivePolicy payload s) := by
  cases payload <;> exact ⟨rfl, rfl, rfl, rfl, rfl, rfl⟩

/-- A handler keeps the Scheduler's fields. -/
theorem runHostOp_kept (P : Params) (f : Frame) (s : State) (op : HostOp) :
    SchedulerFieldsKept s (runHostOp P f s op) := by
  cases op with
  | setWidgetParams =>
    simp only [runHostOp, setWidgetParams]
    split <;> simp [SchedulerFieldsKept]
  | receiveDmxOnChange =>
    have h := setReceivePolicy_kept f.payload (setDirection .input false (clearOutputOnly s))
    simpa [SchedulerFieldsKept, runHostOp, receiveDmxOnChange] using h
  | getWidgetParams => exact emit_kept P _ _ s
  | getWidgetSn => simp [SchedulerFieldsKept, runHostOp, getWidgetSn, getWidgetSnReply]
  | manufacturerLabel => simp [SchedulerFieldsKept, runHostOp, manufacturerLabel, manufacturerLabelReply]
  | getWidgetName => simp [SchedulerFieldsKept, runHostOp, getWidgetName, getWidgetNameReply]
  | outputOnlySendDmxPacket => simp [SchedulerFieldsKept, runHostOp, outputOnlySendDmxPacket]
  | sendRdmPacket => simp [SchedulerFieldsKept, runHostOp, sendRdmPacket, rdmTransmit]
  | sendRdmDiscoveryRequest => simp [SchedulerFieldsKept, runHostOp, sendRdmDiscoveryRequest, rdmTransmit]
  | unknown => exact raise_kept _ s

theorem writeMute_kept (P : Params) (b : Bool) (v : RdmPacket) (s : State) :
    SchedulerFieldsKept s (writeMute P b v s) := by
  unfold writeMute
  split
  · unfold muteAck
    split
    · exact setMuted_kept b s
    · exact (setMuted_kept b s).trans (busSend_kept _ _)
  · simp only [malformedMute]
    split
    · exact (raise_kept _ s).trans (busSend_kept _ _)
    · exact raise_kept _ s

theorem localParam_kept (P : Params) (pkt : List Byte) (s : State) : SchedulerFieldsKept s (localParam P pkt s) := by
  unfold localParam
  split
  · exact .refl s
  · exact busSend_kept _ s

/-- An engine action keeps the Scheduler's fields. -/
theorem runBusOp_kept (P : Params) (v : RdmPacket) (s : State) (op : BusOp) :
    SchedulerFieldsKept s (runBusOp P v s op) := by
  cases op with
  | discUniqueBranch =>
    simp only [runBusOp, discUniqueBranch]
    split
    · exact busSend_kept _ s
    · exact .refl s
  | discMute => exact writeMute_kept P true v s
  | discUnMute => exact writeMute_kept P false v s
  | discOther => exact .refl s
  | getCommand => exact localParam_kept P _ s
  | setCommand => exact localParam_kept P _ s
  | discoveryCommandResponse => exact discoveryResponseSeen_kept P _ _ s
  | otherClass => exact otherClass_kept P v s

/-- The engine keeps the Scheduler's fields. -/
theorem rdmEngine_kept (P : Params) (pkt : List Byte) (s : State) : SchedulerFieldsKept s (rdmEngine P pkt s) := by
  unfold rdmEngine
  split
  · exact discoveryResponseSeen_kept P _ _ s
  · split
    · exact .refl s
    · split
      · exact runBusOp_kept P _ s _
      · exact raise_kept _ s

theorem decodeCall_kept (P : Params) (s : State) : SchedulerFieldsKept s (decodeCall P s).2 := by
  rcases decodeCall_state P s with h | ⟨l, n, -, h⟩ <;> rw [h] <;> simp [SchedulerFieldsKept]

/-- R157: writing the change-of-state frames appends to `HOST_TX` and does nothing else. -/
theorem emitChanges_eq (P : Params) (payloads : List (List Byte)) (s : State) :
    emitChanges P payloads s
      = { s with hostTx := s.hostTx ++ payloads.flatMap (encodeFrame P P.labels.receivedDmxCos) } := by
  induction payloads generalizing s with
  | nil => simp [emitChanges]
  | cons q qs ih =>
    have h := ih (receivedDmxCos P q s)
    simp only [emitChanges, List.foldl_cons] at h ⊢
    rw [h]
    simp [receivedDmxCos]

/-- R150: what HOST_RX leaves, by what its decoder call answered. -/
theorem hostRx_cases (P : Params) (s : State) :
    (∃ f, (decodeBytes P s.codec s.hostRx).event = .frame f
      ∧ hostRx P s = dispatch P f (takeDecoded (decodeBytes P s.codec s.hostRx) s))
    ∨ ((decodeBytes P s.codec s.hostRx).event = .none
      ∧ hostRx P s = takeDecoded (decodeBytes P s.codec s.hostRx) s)
    ∨ ∃ l n, (decodeBytes P s.codec s.hostRx).event = .discard l n
      ∧ hostRx P s = raise (.malformedFrame l n) (takeDecoded (decodeBytes P s.codec s.hostRx) s) := by
  cases h : (decodeBytes P s.codec s.hostRx).event with
  | none => exact .inr (.inl ⟨rfl, by simp only [hostRx, decodeCall, h]⟩)
  | frame f => exact .inl ⟨f, rfl, by simp only [hostRx, decodeCall, h]⟩
  | discard l n => exact .inr (.inr ⟨l, n, rfl, by simp only [hostRx, decodeCall, h]⟩)

/-- R158: what the timeout check leaves. -/
theorem rdmTimeoutCheck_cases (P : Params) (s : State) :
    rdmTimeoutCheck P s = s ∨ rdmTimeoutCheck P s = timeoutPath P s := by
  unfold rdmTimeoutCheck
  split
  · exact .inr rfl
  · exact .inl rfl

/-- R151: what the pump leaves. -/
theorem dmxOutPump_cases (s : State) :
    dmxOutPump s = s ∨ (s.outputOnly = true ∧ pumpDue s.clock s.outputElapsedUs s.outputPeriodUs = true
      ∧ dmxOutPump s = pumpSend s) := by
  unfold dmxOutPump
  split
  · next h =>
    simp only [Bool.and_eq_true] at h
    exact .inr ⟨h.1, h.2, rfl⟩
  · exact .inl rfl

/-- R157: what CHANGE_OF_STATE leaves. -/
theorem changeOfState_cases (P : Params) (s : State) :
    changeOfState P s = s
    ∨ changeOfState P s = { s with busDmxFresh := false }
    ∨ changeOfState P s =
      { s with
        hostTx := s.hostTx ++ (P.cosEncode s.cosShadow s.dmxBuf).flatMap (encodeFrame P P.labels.receivedDmxCos)
        cosShadow := s.dmxBuf
        busDmxFresh := false } := by
  unfold changeOfState
  split
  · split
    · exact .inr (.inl rfl)
    · refine .inr (.inr ?_)
      simp only [forwardChanges, emitChanges_eq]
      rfl
  · exact .inl rfl

/-- No action writes the Scheduler's fields, the mode or the clock. -/
theorem runAction_kept (P : Params) (s : State) (a : Action) : SchedulerFieldsKept s (runAction P s a) := by
  cases a with
  | hostRx =>
    have k : ∀ r, SchedulerFieldsKept s (takeDecoded r s) := fun r => by simp [SchedulerFieldsKept]
    simp only [runAction]
    rcases hostRx_cases P s with ⟨f, -, h⟩ | ⟨-, h⟩ | ⟨l, n, -, h⟩ <;> rw [h]
    · exact (k _).trans (runHostOp_kept P f _ _)
    · exact k _
    · exact (k _).trans (raise_kept _ _)
  | rdmInDispatch =>
    simp only [runAction, rdmInDispatch]
    split
    · split
      · exact .refl s
      · exact (show SchedulerFieldsKept s (busRdmTake s) by simp [SchedulerFieldsKept]).trans (rdmEngine_kept P _ _)
    · exact .refl s
  | dmxOutPump =>
    simp only [runAction]
    rcases dmxOutPump_cases s with h | ⟨-, -, h⟩ <;> rw [h]
    · exact .refl s
    · simp [SchedulerFieldsKept]
  | dmxInForward =>
    simp only [runAction, dmxInForward]
    split
    · simp [SchedulerFieldsKept, receivedDmxPacketDmx]
    · exact .refl s
  | changeOfState =>
    simp only [runAction]
    rcases changeOfState_cases P s with h | h | h <;> rw [h] <;> simp [SchedulerFieldsKept]
  | rdmTimeoutCheck =>
    simp only [runAction]
    rcases rdmTimeoutCheck_cases P s with h | h <;> rw [h]
    · exact .refl s
    · exact timeoutPath_kept P s
  | heartbeat => exact .refl s

/-- R115: an action run from the event table writes no more of the Scheduler's fields than any other. -/
theorem runEventAction_kept (P : Params) (s : State) (a : Action) : SchedulerFieldsKept s (runEventAction P s a) := by
  have h := runAction_kept P { s with clock := s.nowE } a
  exact ⟨h.1, h.2.1, h.2.2.1, h.2.2.2.1, h.2.2.2.2.1, rfl⟩

/-- R115: none of the four default event actions samples CLOCK, so running one as an event is running it. -/
theorem runEventAction_eq (P : Params) (s : State) {a : Action}
    (h : a ∈ ([.dmxInForward, .changeOfState, .rdmTimeoutCheck, .heartbeat] : List Action)) :
    runEventAction P s a = runAction P s a := by
  simp only [List.mem_cons, List.not_mem_nil, or_false] at h
  rcases h with rfl | rfl | rfl | rfl <;> simp only [runEventAction, runAction]
  · simp only [dmxInForward]
    show { (if dmxInForwardGuard s then _ else _ : State) with clock := s.clock } = _
    split <;> rfl
  · simp only [changeOfState]
    show { (if changeOfStateGuard s then
        busDmxConsume (if (changedSlots P s.dmxBuf s.cosShadow).isEmpty then _ else _) else _ : State) with
      clock := s.clock } = _
    split
    · split
      · rfl
      · simp only [forwardChanges, emitChanges_eq]; rfl
    · rfl
  · simp only [rdmTimeoutCheck]
    show { (if timedOut P s.nowE s.deadline then _ else _ : State) with clock := s.clock } = _
    split <;> rfl
  · rfl

/-- R112: the entries of the default event table. -/
theorem eventTable_action {j : Nat} {period : U64} {a : Action}
    (h : Config.params.eventTable[j]? = some (period, a)) :
    a ∈ ([.dmxInForward, .changeOfState, .rdmTimeoutCheck, .heartbeat] : List Action) := by
  obtain ⟨hj, e⟩ := List.getElem?_eq_some_iff.1 h
  have hj' : j < 4 := hj
  interval_cases j <;> (cases e; simp)

/-- R116: what a check leaves. -/
theorem checkEntry_cases (P : Params) (j : Nat) (period : U64) (a : Action) (s : State) :
    (eventDue s.nowE (lastFireAt j s) period = false ∧ checkEntry P j period a s = s)
    ∨ (eventDue s.nowE (lastFireAt j s) period = true
      ∧ checkEntry P j period a s = advanceLastFire j period (runEventAction P s a)) := by
  unfold checkEntry
  cases h : eventDue s.nowE (lastFireAt j s) period
  · exact .inl ⟨rfl, by simp⟩
  · exact .inr ⟨rfl, by simp⟩

/-- R116: what a check of an entry of the default table leaves. -/
theorem checkEntry_default (P : Params) (j : Nat) (period : U64) (s : State) {a : Action}
    (ha : a ∈ ([.dmxInForward, .changeOfState, .rdmTimeoutCheck, .heartbeat] : List Action)) :
    (eventDue s.nowE (lastFireAt j s) period = false ∧ checkEntry P j period a s = s)
    ∨ (eventDue s.nowE (lastFireAt j s) period = true
      ∧ checkEntry P j period a s = advanceLastFire j period (runAction P s a)) := by
  have h := checkEntry_cases P j period a s
  rwa [runEventAction_eq P s ha] at h

/-! ### Actions do not read `pc` -/

theorem runHostOp_setPc (P : Params) (f : Frame) (p : Pc) (s : State) (op : HostOp) :
    runHostOp P f (setPc p s) op = setPc p (runHostOp P f s op) := by
  cases op with
  | setWidgetParams => simp only [runHostOp, setWidgetParams]; split <;> rfl
  | receiveDmxOnChange => simp only [runHostOp, receiveDmxOnChange]; cases f.payload <;> rfl
  | _ => rfl

theorem runBusOp_setPc (P : Params) (v : RdmPacket) (p : Pc) (s : State) (op : BusOp) :
    runBusOp P v (setPc p s) op = setPc p (runBusOp P v s op) := by
  have hw : ∀ b, writeMute P b v (setPc p s) = setPc p (writeMute P b v s) := by
    intro b; simp only [writeMute, muteAck, malformedMute]
    split
    · split <;> rfl
    · split <;> rfl
  have hl : ∀ q, localParam P q (setPc p s) = setPc p (localParam P q s) := by
    intro q; simp only [localParam]; split <;> rfl
  cases op <;> simp only [runBusOp]
  · simp only [discUniqueBranch]
    show (if dubAnswers P v s then _ else _) = _
    split <;> rfl
  · exact hw _
  · exact hw _
  · rfl
  · exact hl _
  · exact hl _
  · rfl
  · rfl

theorem rdmEngine_setPc (P : Params) (pkt : List Byte) (p : Pc) (s : State) :
    rdmEngine P pkt (setPc p s) = setPc p (rdmEngine P pkt s) := by
  unfold rdmEngine
  split
  · rfl
  split
  · rfl
  split
  · exact runBusOp_setPc _ _ _ _ _
  · rfl

theorem runAction_setPc (P : Params) (p : Pc) (s : State) (a : Action) :
    runAction P (setPc p s) a = setPc p (runAction P s a) := by
  cases a <;> simp only [runAction]
  · have h1 : (setPc p s).hostRx = s.hostRx := rfl
    have h2 : (setPc p s).codec = s.codec := rfl
    simp only [hostRx, decodeCall, h1, h2]
    cases (decodeBytes P s.codec s.hostRx).event with
    | none => rfl
    | discard l n => rfl
    | frame f => exact runHostOp_setPc P f p (takeDecoded (decodeBytes P s.codec s.hostRx) s) _
  · have h1 : rdmInGuard (setPc p s) = rdmInGuard s := rfl
    have h2 : (setPc p s).busRdm = s.busRdm := rfl
    simp only [rdmInDispatch, h1, h2]
    cases s.busRdm with
    | none => split <;> rfl
    | some pkt =>
      split
      · exact rdmEngine_setPc P _ p (busRdmTake s)
      · rfl
  · simp only [dmxOutPump]
    show (if (s.outputOnly && pumpDue (clockNow s) s.outputElapsedUs s.outputPeriodUs) then _ else _) = _
    split <;> rfl
  · simp only [dmxInForward]
    show (if dmxInForwardGuard s then _ else _) = _
    split <;> rfl
  · simp only [changeOfState]
    show (if changeOfStateGuard s then busDmxConsume (if (changedSlots P s.dmxBuf s.cosShadow).isEmpty then _ else _) else _) = _
    split
    · split
      · rfl
      · simp only [forwardChanges, emitChanges_eq]; rfl
    · rfl
  · simp only [rdmTimeoutCheck]
    show (if timedOut P s.nowE s.deadline then _ else _) = _
    split <;> rfl
  · rfl

theorem checkEntry_setPc (P : Params) (j : Nat) (q : U64) (a : Action) (p : Pc) (s : State) :
    checkEntry P j q a (setPc p s) = setPc p (checkEntry P j q a s) := by
  unfold checkEntry
  show (if eventDue s.nowE (lastFireAt j s) q then
      advanceLastFire j q { runAction P (setPc p { s with clock := s.nowE }) a with clock := s.clock } else _) = _
  rw [runAction_setPc]
  split <;> rfl

/-- R131, R137 to R143: what a handler does to the flags and the deadline. -/
theorem runHostOp_fields (P : Params) (f : Frame) (s : State) (op : HostOp) :
    (runHostOp P f s op).outputOnly
        = (match op with
          | .getWidgetParams => s.outputOnly
          | .unknown => s.outputOnly
          | .outputOnlySendDmxPacket => true
          | _ => false)
      ∧ (runHostOp P f s op).rdmDiscoveryRunning
        = (match op with
          | .sendRdmPacket => isDiscoveryPayload P f.payload
          | .sendRdmDiscoveryRequest => true
          | _ => s.rdmDiscoveryRunning)
      ∧ (runHostOp P f s op).deadline
        = (match op with
          | .sendRdmPacket => some s.clock
          | .sendRdmDiscoveryRequest => some s.clock
          | _ => s.deadline)
      ∧ (runHostOp P f s op).rdmIsMuted = s.rdmIsMuted := by
  cases op
  case setWidgetParams =>
    simp only [runHostOp, setWidgetParams]
    cases P.paramsValidate f.payload <;> exact ⟨rfl, rfl, rfl, rfl⟩
  case receiveDmxOnChange =>
    have h : setReceivePolicy f.payload (setDirection .input false (clearOutputOnly s))
        = { setDirection .input false (clearOutputOnly s) with
            receivePolicy := f.payload.head?.getD s.receivePolicy } := by
      cases f.payload <;> rfl
    simp [runHostOp, receiveDmxOnChange, h]
  all_goals
    simp [runHostOp, getWidgetParams, getWidgetParamsReply, getWidgetSn, getWidgetSnReply, manufacturerLabel,
      manufacturerLabelReply, getWidgetName, getWidgetNameReply, sendRdmPacket, sendRdmDiscoveryRequest, rdmTransmit,
      unknownLabel, outputOnlySendDmxPacket]

/-- R113: everything a step that answers a next state can have done. -/
theorem schedIteration_cases {P : Params} {s t : State} (h : schedIteration P s = .next t) :
    (s.pc = ⟨.init, 0⟩ ∧ t = schedInit P s)
    ∨ (∃ i a, s.pc = ⟨.poll, i⟩ ∧ P.pollTable[i]? = some a ∧ t = setPc (afterPoll P i) (runAction P s a))
    ∨ (s.pc = ⟨.poll, 0⟩ ∧ P.pollTable = [] ∧ t = setPc ⟨.event, 0⟩ s)
    ∨ (∃ j period a, s.pc = ⟨.event, j⟩ ∧ P.eventTable[j]? = some (period, a)
        ∧ t = setPc (afterEvent P j) (checkEntry P j period a (enterEvent j s)))
    ∨ (s.pc = ⟨.event, 0⟩ ∧ P.eventTable = [] ∧ t = setPc ⟨.poll, 0⟩ (sampleEventClock s)) := by
  rcases hpc : s.pc with ⟨ph, i⟩
  unfold schedIteration at h
  rw [hpc] at h
  cases ph <;> simp only at h
  · split at h
    · next hi =>
      cases h
      exact .inl ⟨by rw [hi], rfl⟩
    · cases h
  · unfold pollStep at h
    split at h
    · next a ha =>
      cases h
      exact .inr (.inl ⟨i, a, rfl, ha, rfl⟩)
    · next hn =>
      split at h
      · next hi =>
        cases h
        subst hi
        exact .inr (.inr (.inl ⟨rfl, by simpa using hn, rfl⟩))
      · cases h
  · unfold eventStep at h
    split at h
    · next p a ha =>
      cases h
      exact .inr (.inr (.inr (.inl ⟨i, p, a, rfl, ha, rfl⟩)))
    · next hn =>
      split at h
      · next hi =>
        cases h
        subst hi
        exact .inr (.inr (.inr (.inr ⟨rfl, by simpa using hn, rfl⟩)))
      · cases h

end Sys2Proof.Machine
end

