-- ==== Sys2Proof/Laws/Packets.lean ====
section
/-! SUPPORT. The packet taken from the bus: its view and its bytes are inverse (30_encoding.md R70), the order on UIDs is
numeric (20_memory.md R44), who is addressed (44_rdm_engine.md R168), and what the instruction of a packet or a frame
runs. -/

namespace Sys2Proof.Machine

/-- R61: splitting a 16-bit value into bytes and joining them again. -/
theorem word16_lo_hi (n : U16) : word16 (loByte n) (hiByte n) = n := by
  apply BitVec.eq_of_getLsbD_eq
  intro i h
  by_cases h8 : i < 8
  · simp [word16, zext16, loByte, h, h8]
  · simp [word16, zext16, loByte, hiByte, h, h8, show i - 8 < 8 by omega, show 8 + (i - 8) = i by omega]

/-- R61: joining two bytes and splitting them again. -/
theorem hi_lo_word16 (lo hi : Byte) : hiByte (word16 lo hi) = hi ∧ loByte (word16 lo hi) = lo := by
  constructor
  · apply BitVec.eq_of_getLsbD_eq
    intro i h
    simp [hiByte, word16, zext16, h]
    simp [show 8 + i < 16 by omega, show i < 16 by omega]
  · apply BitVec.eq_of_getLsbD_eq
    intro i h
    simp [loByte, word16, zext16]

/-- R70: the fixed part of a packet is 24 bytes. -/
theorem packet_bytes_length (o : RdmOperands) (commandClass : Byte) (paramId : U16) :
    (o.packet commandClass paramId).bytes.length = 24 + o.tail.length := by
  simp [RdmPacket.bytes, RdmOperands.packet, Uid.bytes]
  omega

/-- R70: byte `24 + k` of a packet is byte `k` of its tail. -/
theorem byteAt_packet_tail (o : RdmOperands) (commandClass : Byte) (paramId : U16) (k : Nat) :
    byteAt (o.packet commandClass paramId).bytes (24 + k) = byteAt o.tail k := by
  rw [show 24 + k = k + 24 by omega]
  simp [RdmPacket.bytes, RdmOperands.packet, Uid.bytes, byteAt]

/-- R70: the view keeps every byte of the packet. -/
theorem viewPacket_some {pkt : List Byte} {v : RdmPacket} (h : viewPacket pkt = some v) :
    v.bytes = pkt ∧ v.operands.destination = uidAt pkt 3 := by
  unfold viewPacket at h
  split at h
  · cases h
  next hl =>
  cases h
  refine ⟨?_, rfl⟩
  have h24 : 24 ≤ pkt.length := by simpa [viewLength] using hl
  have hb : ∀ i, i < 24 → pkt.drop i = byteAt pkt i :: pkt.drop (i + 1) := by
    intro i hi
    rw [List.drop_eq_getElem_cons (by omega)]
    simp [byteAt, List.getD_eq_getElem?_getD, List.getElem?_eq_getElem (show i < pkt.length by omega)]
  conv_rhs => rw [← List.drop_zero (l := pkt)]
  simp only [hb _ (show 0 < 24 by omega)]
  simp [hb, RdmPacket.bytes, uidAt, Uid.bytes, viewLength, hi_lo_word16]

/-- R70: viewing the bytes of a packet gives the packet. -/
theorem viewPacket_bytes (v : RdmPacket) : viewPacket v.bytes = some v := by
  have hlen : ¬ v.bytes.length < viewLength := by
    have h := packet_bytes_length v.operands v.commandClass v.paramId
    rw [show v.bytes = (v.operands.packet v.commandClass v.paramId).bytes from rfl, h]
    simp [viewLength]
  unfold viewPacket
  rw [if_neg hlen]
  rcases v with ⟨c, p, ⟨a1, a2, a3, ⟨b1, b2, b3, b4, b5, b6⟩, ⟨c1, c2, c3, c4, c5, c6⟩, a4, a5, a6, a7, a8, a9⟩⟩
  show some (RdmPacket.mk c (word16 (loByte p) (hiByte p)) (RdmOperands.mk a1 a2 a3 ⟨b1, b2, b3, b4, b5, b6⟩
    ⟨c1, c2, c3, c4, c5, c6⟩ a4 a5 a6 (word16 (loByte a7) (hiByte a7)) a8 a9)) = _
  rw [word16_lo_hi, word16_lo_hi]

/-- R25, R166: the seven fields of the view, each at its place in the packet's bytes; a packet of fewer than 24 bytes has
no view. -/
theorem viewCommand_some {pkt : List Byte} {r : RdmCommand} (h : viewCommand pkt = some r) :
    24 ≤ pkt.length ∧ r.messageLength = byteAt pkt 2 ∧ r.destinationUid = uidAt pkt 3 ∧ r.sourceUid = uidAt pkt 9
      ∧ r.commandClass = byteAt pkt 20 ∧ r.paramId = word16 (byteAt pkt 22) (byteAt pkt 21)
      ∧ r.paramData = (pkt.take (min pkt.length (24 + (byteAt pkt 23).toNat))).drop 24
      ∧ r.checksum = if 24 + (byteAt pkt 23).toNat + 2 ≤ pkt.length
          then some (word16 (byteAt pkt (25 + (byteAt pkt 23).toNat)) (byteAt pkt (24 + (byteAt pkt 23).toNat)))
          else none := by
  unfold viewCommand viewPacket at h
  split at h
  · cases h
  next hl =>
  cases h
  refine ⟨by simpa [viewLength] using hl, rfl, rfl, rfl, rfl, rfl, ?_, ?_⟩
  · simp only [RdmPacket.command, RdmOperands.paramData, viewLength]
    rw [Nat.min_comm, ← List.take_eq_take_min, List.drop_take]
    congr 1
    omega
  · simp only [RdmPacket.command, RdmOperands.checksum, viewLength, List.drop_drop]
    generalize (byteAt pkt 23).toNat = n
    by_cases hc : 24 + n + 2 ≤ pkt.length
    · rw [if_pos hc, List.drop_eq_getElem_cons (by omega), List.drop_eq_getElem_cons (by omega)]
      simp [byteAt, show 24 + n < pkt.length by omega, show 25 + n < pkt.length by omega, show 24 + n + 1 = 25 + n by omega]
    · rw [if_neg hc]
      have hlen : (pkt.drop (24 + n)).length ≤ 1 := by simp only [List.length_drop]; omega
      cases hd : pkt.drop (24 + n) with
      | nil => rfl
      | cons x xs =>
        rw [hd] at hlen
        cases xs with
        | nil => rfl
        | cons y ys => simp at hlen

/-- R44: on strings of one length the lexicographic order is the order of their numbers, most significant byte first. -/
theorem lexLe_iff (a b : List Byte) (m : Nat) (h : a.length = b.length) :
    lexLe a b = true
      ↔ a.foldl (fun n x => n * 256 + x.toNat) m ≤ b.foldl (fun n x => n * 256 + x.toNat) m := by
  have key : ∀ (a b : List Byte) (m n : Nat), a.length = b.length → m < n →
      a.foldl (fun n x => n * 256 + x.toNat) m < b.foldl (fun n x => n * 256 + x.toNat) n := by
    intro a
    induction a with
    | nil => intro b m n h hm; cases b <;> simp_all
    | cons x xs ih =>
      intro b m n h hm
      cases b with
      | nil => simp at h
      | cons y ys =>
        simp only [List.length_cons, Nat.add_right_cancel_iff] at h
        have hx := x.isLt
        exact ih ys _ _ h (by dsimp only; omega)
  induction a generalizing b m with
  | nil => cases b <;> simp_all [lexLe]
  | cons x xs ih =>
    cases b with
    | nil => simp at h
    | cons y ys =>
      simp only [List.length_cons, Nat.add_right_cancel_iff] at h
      simp only [lexLe, List.foldl_cons]
      split
      · next e => subst e; exact ih _ _ h
      · next ne =>
        have hne : x.toNat ≠ y.toNat := fun e => ne (BitVec.eq_of_toNat_eq e)
        simp only [decide_eq_true_eq]
        constructor
        · intro hl
          exact le_of_lt (key _ _ _ _ h (by omega))
        · intro hl
          by_contra hc
          have hk := key ys xs (m * 256 + y.toNat) (m * 256 + x.toNat) h.symm (by omega)
          omega

/-- R44: the order on UIDs is the order of their 48-bit numbers. -/
theorem uidLe_iff (a b : Uid) : uidLe a b = true ↔ uidNumber a ≤ uidNumber b := lexLe_iff _ _ 0 rfl

/-- R168: the three destinations that address this device. -/
theorem addressed_iff (v : RdmPacket) :
    addressed Config.params v = true
      ↔ (v.operands.destination = ⟨0xFF, 0xFF, 0xFF, 0xFF, 0xFF, 0xFF⟩
        ∨ v.operands.destination = Config.params.myUid
        ∨ v.operands.destination
          = ⟨Config.params.myUid.m0, Config.params.myUid.m1, 0xFF, 0xFF, 0xFF, 0xFF⟩) := by
  have h1 : isBroadcast Config.params v.operands.destination = true
      ↔ v.operands.destination = ⟨0xFF, 0xFF, 0xFF, 0xFF, 0xFF, 0xFF⟩ := decide_eq_true_iff
  have h2 : isUnicast Config.params v.operands.destination = true
      ↔ v.operands.destination = Config.params.myUid := decide_eq_true_iff
  have h3 : isVendorcast Config.params v.operands.destination = true
      ↔ v.operands.destination = ⟨Config.params.myUid.m0, Config.params.myUid.m1, 0xFF, 0xFF, 0xFF, 0xFF⟩ := by
    rcases v.operands.destination with ⟨a, b, c, d, e, f⟩
    rw [isVendorcast, Bool.and_eq_true, decide_eq_true_iff, decide_eq_true_iff]
    generalize Config.params.myUid = u
    rw [show Config.params.rdm.allDevicesDeviceId = [0xFF, 0xFF, 0xFF, 0xFF] from rfl]
    simp [manufacturerId, deviceId, slice, Uid.bytes, and_assoc]
  rw [addressed, isForMe, Bool.or_eq_true, Bool.or_eq_true, h1, h2, h3,
    or_comm (a := _ = Uid.mk _ _ _ _ _ _) (b := v.operands.destination = Config.params.myUid)]

/-- R66, R130: the instruction a frame stands for is its dispatch. -/
theorem exec_instrOfFrame (f : Frame) (s : State) :
    exec (instrOfFrame Config.params f) s = .next (dispatch Config.params f s) := exec_hostOp _ _ _

/-- R73, R165: the instruction a viewed packet stands for runs the action its class and parameter id select. -/
theorem exec_instrOfPacket (v : RdmPacket) (s : State) :
    exec (instrOfPacket Config.params v) s
      = .next (runBusOp Config.params v s (busOpOf Config.params.rdm v.commandClass v.paramId)) := by
  rcases v with ⟨c, p, o⟩
  simp only [instrOfPacket, busOpOf]
  split
  · next h =>
    subst h
    split
    · next h' => subst h'; rfl
    split
    · next h' => subst h'; rfl
    split
    · next h' => subst h'; rfl
    rfl
  split
  · next h => subst h; rfl
  split
  · next h => subst h; rfl
  split
  · next h => subst h; rfl
  rfl

end Sys2Proof.Machine
end

