-- ==== Sys2Proof/Laws/PerInstr.lean ====
section
/-! SUPPORT. The family SelectBytes: the words `encode` gives an instruction stand on the port its row names and hold, at
the selecting bytes, the row's `match` in spec/opcode_table.json (30_encoding.md R82). -/

namespace Sys2Proof.Laws

/-- A row of format HOSTFRAME: byte 1 of the frame is the label. -/
def hostRow (i : Instr) (label : Byte) : Prop :=
  ∃ bytes, encode Config.params i = some (.host bytes) ∧ byteAt bytes 1 = label

/-- A row of format RDMPKT or RAWFE: the packet bytes at the selecting offsets. -/
def busRow (i : Instr) (select : List (Nat × Byte)) : Prop :=
  ∃ bytes, encode Config.params i = some (.bus bytes) ∧ ∀ p ∈ select, byteAt bytes p.1 = p.2

/-- A row that takes no part in decoding. -/
def noRow (i : Instr) : Prop := encode Config.params i = none

/-- R82: what the row of each constructor says of its words. -/
def SelectBytes.Statement (i : Instr) : Prop :=
  match i with
  | .getWidgetParams _ => hostRow i 3
  | .setWidgetParams _ => hostRow i 4
  | .outputOnlySendDmxPacket _ => hostRow i 6
  | .sendRdmPacket _ => hostRow i 7
  | .receiveDmxOnChange _ => hostRow i 8
  | .getWidgetSn _ => hostRow i 10
  | .sendRdmDiscoveryRequest _ => hostRow i 11
  | .manufacturerLabel _ => hostRow i 77
  | .getWidgetName _ => hostRow i 78
  | .unknown label _ => hostRow i label
  | .getWidgetParamsReply => noRow i
  | .receivedDmxPacketDmx => noRow i
  | .receivedDmxPacketRdm _ _ => noRow i
  | .receivedDmxCos _ => noRow i
  | .getWidgetSnReply => noRow i
  | .rdmTimeout => noRow i
  | .manufacturerLabelReply => noRow i
  | .getWidgetNameReply => noRow i
  | .discUniqueBranch _ => busRow i [(20, 0x10), (21, 0x00), (22, 0x01)]
  | .discMute _ => busRow i [(20, 0x10), (21, 0x00), (22, 0x02)]
  | .discUnMute _ => busRow i [(20, 0x10), (21, 0x00), (22, 0x03)]
  | .discOther _ _ => busRow i [(20, 0x10)]
  | .getCommand _ _ => busRow i [(20, 0x20)]
  | .setCommand _ _ => busRow i [(20, 0x30)]
  | .discoveryCommandResponse _ _ => busRow i [(20, 0x11)]
  | .rdmOtherClass commandClass _ _ => busRow i [(20, commandClass)]
  | .rawDiscoveryResponse _ => busRow i [(0, 0xFE)]
  | .dubresp => noRow i
  | .muteack _ => noRow i
  | .decode => noRow i
  | .encode _ _ => noRow i
  | .schedInit => noRow i
  | .schedIteration => noRow i
  | .pollPass => noRow i
  | .eventPass => noRow i
  | .eventCheck _ => noRow i
  | .hostRx => noRow i
  | .rdmInDispatch => noRow i
  | .dmxOutPump => noRow i
  | .dmxInForward => noRow i
  | .changeOfState => noRow i
  | .rdmTimeoutCheck => noRow i
  | .timeoutPath => noRow i
  | .heartbeat => noRow i
  | .dispatch _ => noRow i
  | .rdmTransmit _ => noRow i
  | .rdmEngine _ => noRow i
  | .malformedMute _ => noRow i

theorem SelectBytes.getWidgetParams (payload : List Byte) : SelectBytes.Statement (.getWidgetParams payload) := ⟨_, rfl, rfl⟩
theorem SelectBytes.setWidgetParams (payload : List Byte) : SelectBytes.Statement (.setWidgetParams payload) := ⟨_, rfl, rfl⟩
theorem SelectBytes.outputOnlySendDmxPacket (payload : List Byte) : SelectBytes.Statement (.outputOnlySendDmxPacket payload) := ⟨_, rfl, rfl⟩
theorem SelectBytes.sendRdmPacket (payload : List Byte) : SelectBytes.Statement (.sendRdmPacket payload) := ⟨_, rfl, rfl⟩
theorem SelectBytes.receiveDmxOnChange (payload : List Byte) : SelectBytes.Statement (.receiveDmxOnChange payload) := ⟨_, rfl, rfl⟩
theorem SelectBytes.getWidgetSn (payload : List Byte) : SelectBytes.Statement (.getWidgetSn payload) := ⟨_, rfl, rfl⟩
theorem SelectBytes.sendRdmDiscoveryRequest (payload : List Byte) : SelectBytes.Statement (.sendRdmDiscoveryRequest payload) := ⟨_, rfl, rfl⟩
theorem SelectBytes.manufacturerLabel (payload : List Byte) : SelectBytes.Statement (.manufacturerLabel payload) := ⟨_, rfl, rfl⟩
theorem SelectBytes.getWidgetName (payload : List Byte) : SelectBytes.Statement (.getWidgetName payload) := ⟨_, rfl, rfl⟩
theorem SelectBytes.unknown (label : Byte) (payload : List Byte) : SelectBytes.Statement (.unknown label payload) := ⟨_, rfl, rfl⟩
theorem SelectBytes.getWidgetParamsReply : SelectBytes.Statement (.getWidgetParamsReply) := rfl
theorem SelectBytes.receivedDmxPacketDmx : SelectBytes.Statement (.receivedDmxPacketDmx) := rfl
theorem SelectBytes.receivedDmxPacketRdm (packet : List Byte) (k : Nat) : SelectBytes.Statement (.receivedDmxPacketRdm packet k) := rfl
theorem SelectBytes.receivedDmxCos (payload : List Byte) : SelectBytes.Statement (.receivedDmxCos payload) := rfl
theorem SelectBytes.getWidgetSnReply : SelectBytes.Statement (.getWidgetSnReply) := rfl
theorem SelectBytes.rdmTimeout : SelectBytes.Statement (.rdmTimeout) := rfl
theorem SelectBytes.manufacturerLabelReply : SelectBytes.Statement (.manufacturerLabelReply) := rfl
theorem SelectBytes.getWidgetNameReply : SelectBytes.Statement (.getWidgetNameReply) := rfl
theorem SelectBytes.discUniqueBranch (o : RdmOperands) : SelectBytes.Statement (.discUniqueBranch o) := ⟨_, rfl, by simp only [List.forall_mem_cons]; exact ⟨rfl, (by decide : hiByte 1 = 0), (by decide : loByte 1 = 1), by simp⟩⟩
theorem SelectBytes.discMute (o : RdmOperands) : SelectBytes.Statement (.discMute o) := ⟨_, rfl, by simp only [List.forall_mem_cons]; exact ⟨rfl, (by decide : hiByte 2 = 0), (by decide : loByte 2 = 2), by simp⟩⟩
theorem SelectBytes.discUnMute (o : RdmOperands) : SelectBytes.Statement (.discUnMute o) := ⟨_, rfl, by simp only [List.forall_mem_cons]; exact ⟨rfl, (by decide : hiByte 3 = 0), (by decide : loByte 3 = 3), by simp⟩⟩
theorem SelectBytes.discOther (paramId : U16) (o : RdmOperands) : SelectBytes.Statement (.discOther paramId o) := ⟨_, rfl, by simp only [List.forall_mem_singleton]; rfl⟩
theorem SelectBytes.getCommand (paramId : U16) (o : RdmOperands) : SelectBytes.Statement (.getCommand paramId o) := ⟨_, rfl, by simp only [List.forall_mem_singleton]; rfl⟩
theorem SelectBytes.setCommand (paramId : U16) (o : RdmOperands) : SelectBytes.Statement (.setCommand paramId o) := ⟨_, rfl, by simp only [List.forall_mem_singleton]; rfl⟩
theorem SelectBytes.discoveryCommandResponse (paramId : U16) (o : RdmOperands) : SelectBytes.Statement (.discoveryCommandResponse paramId o) := ⟨_, rfl, by simp only [List.forall_mem_singleton]; rfl⟩
theorem SelectBytes.rdmOtherClass (commandClass : Byte) (paramId : U16) (o : RdmOperands) : SelectBytes.Statement (.rdmOtherClass commandClass paramId o) := ⟨_, rfl, by simp only [List.forall_mem_singleton]; rfl⟩
theorem SelectBytes.rawDiscoveryResponse (rest : List Byte) : SelectBytes.Statement (.rawDiscoveryResponse rest) := ⟨_, rfl, by simp only [List.forall_mem_singleton]; rfl⟩
theorem SelectBytes.dubresp : SelectBytes.Statement (.dubresp) := rfl
theorem SelectBytes.muteack (request : List Byte) : SelectBytes.Statement (.muteack request) := rfl
theorem SelectBytes.decode : SelectBytes.Statement (.decode) := rfl
theorem SelectBytes.encode (label : Byte) (payload : List Byte) : SelectBytes.Statement (.encode label payload) := rfl
theorem SelectBytes.schedInit : SelectBytes.Statement (.schedInit) := rfl
theorem SelectBytes.schedIteration : SelectBytes.Statement (.schedIteration) := rfl
theorem SelectBytes.pollPass : SelectBytes.Statement (.pollPass) := rfl
theorem SelectBytes.eventPass : SelectBytes.Statement (.eventPass) := rfl
theorem SelectBytes.eventCheck (j : Nat) : SelectBytes.Statement (.eventCheck j) := rfl
theorem SelectBytes.hostRx : SelectBytes.Statement (.hostRx) := rfl
theorem SelectBytes.rdmInDispatch : SelectBytes.Statement (.rdmInDispatch) := rfl
theorem SelectBytes.dmxOutPump : SelectBytes.Statement (.dmxOutPump) := rfl
theorem SelectBytes.dmxInForward : SelectBytes.Statement (.dmxInForward) := rfl
theorem SelectBytes.changeOfState : SelectBytes.Statement (.changeOfState) := rfl
theorem SelectBytes.rdmTimeoutCheck : SelectBytes.Statement (.rdmTimeoutCheck) := rfl
theorem SelectBytes.timeoutPath : SelectBytes.Statement (.timeoutPath) := rfl
theorem SelectBytes.heartbeat : SelectBytes.Statement (.heartbeat) := rfl
theorem SelectBytes.dispatch (f : Frame) : SelectBytes.Statement (.dispatch f) := rfl
theorem SelectBytes.rdmTransmit (bytes : List Byte) : SelectBytes.Statement (.rdmTransmit bytes) := rfl
theorem SelectBytes.rdmEngine (packet : List Byte) : SelectBytes.Statement (.rdmEngine packet) := rfl
theorem SelectBytes.malformedMute (p : RdmPacket) : SelectBytes.Statement (.malformedMute p) := rfl

end Sys2Proof.Laws
end

