-- ==== Sys2Proof/Laws/Silent.lean ====
section
/-! SUPPORT. What the silent cases of 60_exceptions.md R196 leave: each named case has the effect its row gives. -/

namespace Sys2Proof.Machine

/-- R91: an inter-frame byte is dropped. -/
theorem interFrameByte_dropped {P : Params} {c : Codec} {b : Byte} (h : interFrameByte P c b = true) :
    decStep P c b = (c, .none) := by
  simp only [interFrameByte, Bool.and_eq_true, beq_iff_eq, bne_iff_ne] at h
  simp [decStep, h.1, h.2]

/-- R96: a stray byte is dropped, and the bytes after it deliver the frame. -/
theorem strayBeforeEnd_dropped {P : Params} {c : Codec} {b : Byte} {later : List Byte}
    (h : strayBeforeEnd P c b later = true) :
    decStep P c b = ({ c with rxCnt := c.rxCnt + 1 }, .none)
      ∧ deliversFrame (decodeBytes P { c with rxCnt := c.rxCnt + 1 } later).event = true := by
  simp only [strayBeforeEnd, Bool.and_eq_true, beq_iff_eq, bne_iff_ne] at h
  obtain ⟨⟨hs, hb⟩, hd⟩ := h
  have hc : ¬ P.cap ≤ c.rxCnt := by
    intro hc
    simp [decodeBytes, decStep, hs, hb, hc, deliversFrame] at hd
  have e : decStep P c b = ({ c with rxCnt := c.rxCnt + 1 }, .none) := by simp [decStep, hs, hb, hc]
  refine ⟨e, ?_⟩
  simpa only [decodeBytes, e] using hd

/-- R166: a short packet is dropped. -/
theorem shortRdmPacket_dropped {P : Params} {pkt : List Byte} {s : State} (h : shortRdmPacket pkt = true) :
    rdmEngine P pkt s = s := by
  simp only [shortRdmPacket, Bool.and_eq_true, Bool.not_eq_true', decide_eq_true_eq] at h
  simp [rdmEngine, viewPacket, h.1, h.2]

/-- R165: what the engine does with a packet on which it runs `op`. -/
theorem engineRuns_engine {P : Params} {op : BusOp} {v : RdmPacket} {s : State} (h : engineRuns P op v = true) :
    rdmEngine P v.bytes s = runBusOp P v s op := by
  simp only [engineRuns, RdmOperands.wf, Bool.and_eq_true, beq_iff_eq, bne_iff_ne] at h
  obtain ⟨⟨hw, ha⟩, ho⟩ := h
  have hr : isRawResponse v.bytes = false := by
    simpa [isRawResponse, RdmPacket.bytes] using hw
  simp [rdmEngine, hr, viewPacket_bytes, ha, ho]

/-- R177: an ignored parameter id leaves nothing. -/
theorem ignoredDiscoveryPid_silent {P : Params} {v : RdmPacket} {s : State} (h : ignoredDiscoveryPid P v = true) :
    rdmEngine P v.bytes s = s := engineRuns_engine h

/-- R170: a short request gets no response. -/
theorem shortDubRequest_silent {P : Params} {v : RdmPacket} {s : State} (h : shortDubRequest P v = true) :
    rdmEngine P v.bytes s = s := by
  simp only [shortDubRequest, Bool.and_eq_true, decide_eq_true_eq] at h
  rw [engineRuns_engine h.1]
  simp [runBusOp, discUniqueBranch, dubAnswers, show ¬ dubRequestLength ≤ v.bytes.length by omega]

/-- R170: a muted or out-of-range device gives no response. -/
theorem mutedOrOutOfRange_silent {P : Params} {v : RdmPacket} {s : State} (h : mutedOrOutOfRange P v s = true) :
    rdmEngine P v.bytes s = s := by
  simp only [mutedOrOutOfRange, Bool.and_eq_true, Bool.or_eq_true, Bool.not_eq_true'] at h
  rw [engineRuns_engine h.1]
  rcases h.2 with h | h <;> simp [runBusOp, discUniqueBranch, dubAnswers, h]

/-- R151 to R158: an action whose guard does not hold leaves everything, pending input too. -/
theorem guardFalse_noop {P : Params} {s : State} {a : Action} (h : guardFalse P s a = true) : runAction P s a = s := by
  cases a <;> simp only [guardFalse, Bool.not_eq_true', Bool.false_eq_true] at h <;> simp only [runAction]
  · unfold rdmInDispatch
    cases hb : s.busRdm <;> simp_all
  · simp [dmxOutPump, h]
  · simp [dmxInForward, h]
  · simp [changeOfState, h]
  · simp [rdmTimeoutCheck, h]

/-- R133: a rejected request stores nothing and still forces the direction. -/
theorem paramsRejected_stores_nothing {P : Params} {payload : List Byte} {s : State}
    (h : paramsRejected P payload = true) :
    setWidgetParams P payload s = setDirection .input true (clearOutputOnly s) := by
  simp only [paramsRejected, Option.isNone_iff_eq_none] at h
  simp [setWidgetParams, h]

/-- R95, R101: encoding a payload that is too long keeps its first CAP bytes. -/
theorem encodeTruncates_takes {P : Params} {label : Byte} {payload : List Byte}
    (h : encodeTruncates P payload = true) : encodeFrame P label payload = encodeFrame P label (payload.take P.cap) := by
  simp only [encodeTruncates, decide_eq_true_eq] at h
  simp [encodeFrame, Nat.min_eq_right (Nat.le_of_lt h), Nat.min_eq_left (Nat.le_of_lt h)]

/-- R95: a length beyond the buffer stores CAP bytes. -/
theorem decodeTruncates_stored {P : Params} {c : Codec} (h : decodeTruncates P c = true) : c.stored P = P.cap := by
  simp only [decodeTruncates, decide_eq_true_eq] at h
  exact Nat.min_eq_right (Nat.le_of_lt h)

/-- R138: label 8 without a payload keeps the policy. -/
theorem shortPayload_policy {f : Frame} {s : State} (h : shortPayload f .receiveDmxOnChange = true) :
    setReceivePolicy f.payload s = s := by
  simp only [shortPayload, List.isEmpty_iff] at h
  rw [h]
  rfl

/-- R139: a label-7 payload without byte 20 is not discovery. -/
theorem shortPayload_discovery {P : Params} {f : Frame} (h : shortPayload f .sendRdmPacket = true) :
    isDiscoveryPayload P f.payload = false := by
  simp only [shortPayload, decide_eq_true_eq] at h
  simp [isDiscoveryPayload, Nat.not_lt.2 h]

/-- R137: a label-6 payload of at most one byte copies no slot. -/
theorem shortPayload_slots {P : Params} {f : Frame} {buf : List Byte}
    (h : shortPayload f .outputOnlySendDmxPacket = true) : copySlots P buf f.payload = buf := by
  simp only [shortPayload, decide_eq_true_eq] at h
  have hn : outputCount P f.payload - 1 = 0 := by simp only [outputCount]; omega
  have ho : ∀ b : List Byte, overlay b [] = b := fun b => by cases b <;> rfl
  rw [copySlots, hn, memWrite, slice, List.take_zero, ho, List.take_append_drop]

end Sys2Proof.Machine
end

