-- ==== Sys2Proof/Tests/Slice0.lean ====
section
/-! SUPPORT. The model's own tests. Expected values are those of the vectors and programs of 95_test_vectors.md (V<n>), or
words written out by hand from 30_encoding.md; each comment names its source. The last section shows, for every statement
with hypotheses, a concrete instance that meets them. -/

namespace Sys2Proof.Tests

open Sys2Proof Sys2Proof.Machine

/-! ### The parameters and the start states of 95_test_vectors.md section 0 -/

/-- 95_test_vectors.md section 0. -/
def tp : Params where
  startByte := 0x7E
  endByte := 0xE7
  cap := 600
  rdmTimeoutUs := 1000000
  dmxSlots := 512
  dmxBufLen := 513
  labels := {}
  rdm := {}
  myUid := ⟨0x7F, 0xF0, 0x12, 0x34, 0x56, 0x78⟩
  serial := [0x78, 0x56, 0x34, 0x12]
  manufacturerLabelBytes := [0xF0, 0x7F, 0x41, 0x42]
  nameLabelBytes := [0x01, 0x00, 0x57]
  mode := .dmxRdm
  pollTable := [.hostRx, .rdmInDispatch, .dmxOutPump]
  eventTable := [(1000, .dmxInForward), (1000, .changeOfState), (1000, .rdmTimeoutCheck), (1000, .heartbeat)]
  periodOf := fun _ => 25000
  paramsValidate := fun p => if 5 ≤ p.length then some ⟨byteAt p 2, byteAt p 3, byteAt p 4⟩ else none
  paramsReply := fun c => [0x04, 0x01, c.breakTime, c.mabTime, c.refreshRate]
  configInit := ⟨9, 1, 40⟩
  ackEnvelope := fun _ d => d
  nackOnMalformedMute := false
  nackResponse := fun _ => []
  suppressAckOnBroadcast := false
  paramAccess := fun _ => none
  cosEncode := fun _ current => [current.take 6]
  heartbeatAction := fun _ => ()

/-- The parameters with a payload buffer of 3 bytes, for the corner cases at CAP. -/
def tp3 : Params := { tp with cap := 3 }

/-- After SCHED_INIT, clock 5000 (95_test_vectors.md section 2.4). -/
def st : State :=
  { State.resetWith tp with
    schedStarted := true
    lastFire := [5000, 5000, 5000, 5000]
    pc := ⟨.poll, 0⟩
    clock := 5000 }

/-- One HOST_RX action on the bytes. -/
def rx (bytes : List Byte) (s : State := st) : State := hostRx tp { s with hostRx := bytes }

/-- One RDM_IN_DISPATCH action on the packet, the deadline armed at 200. -/
def bus (pkt : List Byte) (muted : Bool := false) : State :=
  rdmInDispatch tp { st with busRdm := some pkt, deadline := some 200, rdmIsMuted := muted }

/-- The next state of an outcome. -/
def nextOf : Out → Option State
  | .next s => some s
  | .fault _ => none
  | .refused _ => none

/-- `n` copies of a byte. -/
def copies (n : Nat) (b : Byte) : List Byte := List.replicate n b

/-! ### Words -/

/-- V40: a broadcast DISC_UNIQUE_BRANCH with the whole range. -/
def v40 : List Byte :=
  [0xCC, 0x01, 0x24, 0xFF, 0xFF, 0xFF, 0xFF, 0xFF, 0xFF, 0x7F, 0xF0, 0x00, 0x00, 0x00, 0x01, 0x00, 0x01, 0x00, 0x00,
    0x00, 0x10, 0x00, 0x01, 0x0C, 0x00, 0x00, 0x00, 0x00, 0x00, 0x00, 0xFF, 0xFF, 0xFF, 0xFF, 0xFF, 0xFF, 0x0E, 0x73]

/-- A 26-byte packet with an empty parameter data, checksum bytes as given. -/
def short (dest src : List Byte) (tn port cc : Byte) (pid : List Byte) (pdl : Byte) (tail : List Byte) : List Byte :=
  [0xCC, 0x01, 0x18] ++ dest ++ src ++ [tn, port, 0x00, 0x00, 0x00, cc] ++ pid ++ [pdl] ++ tail

/-- The test identity MY_UID and the controller's UID. -/
def me : List Byte := [0x7F, 0xF0, 0x12, 0x34, 0x56, 0x78]
/-- 95_test_vectors.md section 0. -/
def controller : List Byte := [0x7F, 0xF0, 0x00, 0x00, 0x00, 0x01]

/-- V43: unicast DISC_MUTE. -/
def v43 : List Byte := short me controller 2 1 0x10 [0x00, 0x02] 0 [0x04, 0xED]
/-- V44: unicast DISC_UN_MUTE. -/
def v44 : List Byte := short me controller 3 1 0x10 [0x00, 0x03] 0 [0x04, 0xEF]
/-- V53: discovery class, parameter 4. -/
def v53 : List Byte := short me controller 6 1 0x10 [0x00, 0x04] 0 [0x04, 0xF3]
/-- V54: GET_COMMAND. -/
def v54 : List Byte := short me controller 9 1 0x20 [0x00, 0xF0] 0 [0x05, 0xF2]
/-- V46c: class 0x99. -/
def v46c : List Byte := short me controller 1 1 0x99 [0x12, 0x34] 0 [0x05, 0xB9]
/-- V46: a GET_COMMAND_RESPONSE. -/
def v46 : List Byte :=
  [0xCC, 0x01, 0x1A, 0x7F, 0xF0, 0x12, 0x34, 0x56, 0x78, 0x7F, 0xF0, 0xAA, 0xBB, 0xCC, 0xDD, 0x07, 0x00, 0x00, 0x00,
    0x00, 0x21, 0x00, 0xF0, 0x02, 0x00, 0x01, 0x09, 0x02]
/-- V56: a DISCOVERY_COMMAND_RESPONSE. -/
def v56 : List Byte :=
  [0xCC, 0x01, 0x1A, 0x7F, 0xF0, 0x12, 0x34, 0x56, 0x78, 0x7F, 0xF0, 0xAA, 0xBB, 0xCC, 0xDD, 0x08, 0x00, 0x00, 0x00,
    0x00, 0x11, 0x00, 0x02, 0x02, 0x00, 0x00, 0x08, 0x04]
/-- V20: the response of MY_UID. -/
def v20 : List Byte :=
  [0xFE, 0xFE, 0xFE, 0xFE, 0xFE, 0xFE, 0xFE, 0xAA, 0xFF, 0x7F, 0xFA, 0xF5, 0xBA, 0x57, 0xBE, 0x75, 0xFE, 0x57, 0xFA,
    0x7D, 0xAA, 0x5D, 0xFF, 0x7D]

/-! ### Decoding: for every row that has words, its word written out from R60, R65, R70, R71, R72 -/

theorem test_decode_get_widget_params : decode tp (.host [0x7E, 0x03, 0x00, 0x00, 0xE7]) = .ok (.getWidgetParams []) := by
  rfl
theorem test_decode_set_widget_params :
    decode tp (.host [0x7E, 0x04, 0x02, 0x00, 0xAA, 0xBB, 0xE7]) = .ok (.setWidgetParams [0xAA, 0xBB]) := by rfl
theorem test_decode_output_only :
    decode tp (.host [0x7E, 0x06, 0x04, 0x00, 0x00, 0x10, 0x20, 0x30, 0xE7])
      = .ok (.outputOnlySendDmxPacket [0x00, 0x10, 0x20, 0x30]) := by rfl
theorem test_decode_send_rdm_packet : decode tp (.host [0x7E, 0x07, 0x01, 0x00, 0x7E, 0xE7]) = .ok (.sendRdmPacket [0x7E]) := by
  rfl
theorem test_decode_receive_dmx_on_change :
    decode tp (.host [0x7E, 0x08, 0x01, 0x00, 0x01, 0xE7]) = .ok (.receiveDmxOnChange [0x01]) := by rfl
theorem test_decode_get_widget_sn : decode tp (.host [0x7E, 0x0A, 0x00, 0x00, 0xE7]) = .ok (.getWidgetSn []) := by rfl
theorem test_decode_discovery_request :
    decode tp (.host [0x7E, 0x0B, 0x01, 0x00, 0xE7, 0xE7]) = .ok (.sendRdmDiscoveryRequest [0xE7]) := by rfl
theorem test_decode_manufacturer : decode tp (.host [0x7E, 0x4D, 0x00, 0x00, 0xE7]) = .ok (.manufacturerLabel []) := by rfl
theorem test_decode_name : decode tp (.host [0x7E, 0x4E, 0x00, 0x00, 0xE7]) = .ok (.getWidgetName []) := by rfl
theorem test_decode_unknown : decode tp (.host [0x7E, 0x63, 0x01, 0x00, 0x01, 0xE7]) = .ok (.unknown 0x63 [0x01]) := by rfl
/-- R66: label 5, a widget → host label, selects UNKNOWN when the host sends it. -/
theorem test_decode_label_5 : decode tp (.host [0x7E, 0x05, 0x00, 0x00, 0xE7]) = .ok (.unknown 5 []) := by rfl
/-- R61: 0x0102 is 258 payload bytes, least significant byte first; the frame is not complete. -/
theorem test_decode_incomplete : decode tp (.host [0x7E, 0x0A, 0x02, 0x01, 0xE7]) = .error .noCompleteFrame := by rfl

/-- The fields of V40 by R70. -/
theorem test_decode_dub :
    decode tp (.bus v40) = .ok (.discUniqueBranch
      { startCode := 0xCC, subStartCode := 0x01, messageLength := 0x24
        destination := ⟨0xFF, 0xFF, 0xFF, 0xFF, 0xFF, 0xFF⟩, source := ⟨0x7F, 0xF0, 0x00, 0x00, 0x00, 0x01⟩
        transaction := 0, portId := 1, messageCount := 0, subDevice := 0, pdl := 0x0C, tail := v40.drop 24 }) := by rfl
/-- The operands of a packet built by `short`. -/
def ops (tn port pdl : Byte) (tail : List Byte) : RdmOperands :=
  { startCode := 0xCC, subStartCode := 0x01, messageLength := 0x18, destination := ⟨0x7F, 0xF0, 0x12, 0x34, 0x56, 0x78⟩
    source := ⟨0x7F, 0xF0, 0x00, 0x00, 0x00, 0x01⟩, transaction := tn, portId := port, messageCount := 0, subDevice := 0
    pdl := pdl, tail := tail }
theorem test_decode_mute : decode tp (.bus v43) = .ok (.discMute (ops 2 1 0 [0x04, 0xED])) := by rfl
theorem test_decode_un_mute : decode tp (.bus v44) = .ok (.discUnMute (ops 3 1 0 [0x04, 0xEF])) := by rfl
theorem test_decode_disc_other : decode tp (.bus v53) = .ok (.discOther 4 (ops 6 1 0 [0x04, 0xF3])) := by rfl
theorem test_decode_get_command : decode tp (.bus v54) = .ok (.getCommand 0x00F0 (ops 9 1 0 [0x05, 0xF2])) := by rfl
theorem test_decode_set_command :
    decode tp (.bus (short me controller 9 1 0x30 [0x12, 0x34] 2 [0x00, 0x01]))
      = .ok (.setCommand 0x1234 (ops 9 1 2 [0x00, 0x01])) := by rfl
theorem test_decode_discovery_response :
    decode tp (.bus (short me controller 8 0 0x11 [0x00, 0x02] 0 [])) = .ok (.discoveryCommandResponse 2 (ops 8 0 0 [])) := by
  rfl
theorem test_decode_other_class :
    decode tp (.bus v46c) = .ok (.rdmOtherClass 0x99 0x1234 (ops 1 1 0 [0x05, 0xB9])) := by rfl
theorem test_decode_raw : decode tp (.bus [0xFE, 0xFE, 0xAA]) = .ok (.rawDiscoveryResponse [0xFE, 0xAA]) := by rfl
/-- V58: shorter than 24 and not 0xFE. -/
theorem test_decode_short : decode tp (.bus (v40.take 23)) = .error .shortRdmPacket := by rfl

/-- R82: the label of a table word is an empty frame's; 0xFE is a packet's first byte. -/
theorem test_table_word_label : decodeTableWord 8 0x0A = some (.getWidgetSn []) ∧ decodeTableWord 8 0x09 = some (.unknown 9 []) := by
  exact ⟨rfl, rfl⟩
/-- R73: `(class << 16) | parameter`; class 0x00 is any other class. -/
theorem test_table_word_packet :
    (∃ o, decodeTableWord 24 0x110000 = some (.discoveryCommandResponse 0 o))
      ∧ ∃ o, decodeTableWord 24 0 = some (.rdmOtherClass 0 0 o) := ⟨⟨_, rfl⟩, ⟨_, rfl⟩⟩

/-- The first step after reset runs the placed frame: label 0x63 is unknown. -/
theorem test_fetch_frame :
    (nextOf (step (State.reset.withFetchWord 8 0x63))).map State.trace = some [.unknownLabel 0x63] := by rfl
/-- The first step after reset runs the placed packet: a broadcast mute with no parameter data. -/
theorem test_fetch_packet :
    (nextOf (step (State.reset.withFetchWord 24 0x100002))).map (fun s => (s.rdmIsMuted, s.busLog))
      = some (true, [.send [0x00, 0x00]]) := by rfl

/-! ### WellFormed refuses -/

theorem test_wf_payload_too_long : (Instr.getWidgetSn (copies 4 0)).wf tp3 = false ∧ (Instr.getWidgetSn (copies 3 0)).wf tp3 = true := by
  decide
theorem test_wf_unknown_known_label : (Instr.unknown 3 []).wf tp = false ∧ (Instr.unknown 5 []).wf tp = true := by decide
theorem test_wf_start_code_fe :
    (Instr.discMute { ops 2 1 0 [] with startCode := 0xFE }).wf tp = false ∧ (Instr.discMute (ops 2 1 0 [])).wf tp = true := by
  decide
theorem test_wf_disc_other_selected : (Instr.discOther 2 (ops 2 1 0 [])).wf tp = false ∧ (Instr.discOther 4 (ops 2 1 0 [])).wf tp = true := by
  decide
theorem test_wf_other_class_selected :
    (Instr.rdmOtherClass 0x20 0 (ops 2 1 0 [])).wf tp = false ∧ (Instr.rdmOtherClass 0x21 0 (ops 2 1 0 [])).wf tp = true := by
  decide
theorem test_wf_event_index : (Instr.eventCheck 4).wf tp = false ∧ (Instr.eventCheck 3).wf tp = true := by decide
theorem test_wf_dispatch_payload : (Instr.dispatch ⟨10, copies 4 0⟩).wf tp3 = false := by decide
theorem test_wf_params_labels_distinct : ¬ Params.EncodingWf { tp with labels := { getWidgetSn := 3 } } := by
  intro h
  exact absurd h.2.2.1 (by decide)

/-! ### Frame Codec -/

/-- V2. -/
theorem test_encode : encodeFrame tp 10 [0x78, 0x56, 0x34, 0x12] = [0x7E, 0x0A, 0x04, 0x00, 0x78, 0x56, 0x34, 0x12, 0xE7] := by
  decide
set_option maxRecDepth 20000 in
/-- V3, V4: the length is little-endian and carries the cut count. -/
theorem test_encode_long :
    (encodeFrame tp 5 (copies 514 0)).take 4 = [0x7E, 0x05, 0x02, 0x02]
      ∧ (encodeFrame tp 6 (copies 601 1)).take 4 = [0x7E, 0x06, 0x58, 0x02] := by exact ⟨rfl, rfl⟩

/-- What a decoder call on the bytes answers and leaves. -/
def call (P : Params) (bytes : List Byte) : Option Frame × List Byte × List Condition × DecState :=
  let r := decodeCall P { st with codec := Codec.idle P, hostRx := bytes }
  (r.1, r.2.hostRx, r.2.trace, r.2.codec.decState)

/-- V5. -/
theorem test_decode_call_skips :
    call tp [0x00, 0x55, 0x7E, 0x0A, 0x00, 0x00, 0xE7, 0x99] = (some ⟨10, []⟩, [0x99], [], .hunt) := by rfl
/-- V6, V7: stray bytes are dropped; markers in the payload are data. -/
theorem test_decode_call_stray :
    call tp [0x7E, 0x08, 0x01, 0x00, 0x01, 0x33, 0x44, 0xE7, 0x11] = (some ⟨8, [0x01]⟩, [0x11], [], .hunt)
      ∧ call tp [0x7E, 0x08, 0x03, 0x00, 0xE7, 0x7E, 0xE7, 0xE7] = (some ⟨8, [0xE7, 0x7E, 0xE7]⟩, [], [], .hunt) := by
  exact ⟨rfl, rfl⟩
/-- V8 with CAP = 3: discarded after 8 bytes, at offset 3. -/
theorem test_decode_call_discards :
    call tp3 [0x7E, 0x08, 0x02, 0x00, 0xAA, 0xBB, 0x00, 0x00, 0x00] = (none, [0x00], [.malformedFrame 8 2], .hunt) := by rfl
/-- V9, V10, V11 with CAP = 3: the last offset examined is CAP. -/
theorem test_decode_call_at_cap :
    call tp3 [0x7E, 0x06, 0x04, 0x00, 1, 1, 1, 1, 0xE7] = (none, [0xE7], [.malformedFrame 6 4], .hunt)
      ∧ call tp3 [0x7E, 0x06, 0x04, 0x00, 1, 1, 1, 0xE7] = (some ⟨6, [1, 1, 1]⟩, [], [], .hunt)
      ∧ call tp3 [0x7E, 0x06, 0x03, 0x00, 1, 1, 1, 0xE7] = (some ⟨6, [1, 1, 1]⟩, [], [], .hunt) := by exact ⟨rfl, rfl, rfl⟩
/-- V12: the framer keeps its state between calls. -/
theorem test_decode_call_resumes :
    call tp [0x7E, 0x0A, 0x00] = (none, [], [], .lenHi)
      ∧ (decodeBytes tp (decodeBytes tp (Codec.idle tp) [0x7E, 0x0A, 0x00]).codec [0x00, 0xE7]).event = .frame ⟨10, []⟩ := by
  exact ⟨rfl, rfl⟩

/-! ### Host commands -/

/-- V37: label 3 does not leave output-only mode. -/
theorem test_get_widget_params :
    let t := rx [0x7E, 0x03, 0x02, 0x00, 0x00, 0x00, 0xE7] { st with outputOnly := true }
    t.hostTx = [0x7E, 0x03, 0x05, 0x00, 0x04, 0x01, 0x09, 0x01, 0x28, 0xE7] ∧ t.outputOnly = true := by exact ⟨rfl, rfl⟩
/-- V38. -/
theorem test_set_widget_params :
    let t := rx [0x7E, 0x04, 0x05, 0x00, 0x00, 0x00, 0x09, 0x01, 0x28, 0xE7] { st with outputOnly := true }
    t.outputOnly = false ∧ t.config = ⟨9, 1, 40⟩ ∧ t.configLog = [⟨9, 1, 40⟩] ∧ t.busLog = [.dir .input true] := by
  exact ⟨rfl, rfl, rfl, rfl⟩
/-- R133: a rejected request stores nothing. -/
theorem test_set_widget_params_rejected :
    let t := rx [0x7E, 0x04, 0x00, 0x00, 0xE7]
    t.configLog = [] ∧ t.busLog = [.dir .input true] := by exact ⟨rfl, rfl⟩
/-- V39d. -/
theorem test_get_widget_sn :
    let t := rx [0x7E, 0x0A, 0x00, 0x00, 0xE7]
    t.hostTx = [0x7E, 0x0A, 0x04, 0x00, 0x78, 0x56, 0x34, 0x12, 0xE7] ∧ t.busLog = [.dir .input true] := by exact ⟨rfl, rfl⟩
/-- V39. -/
theorem test_identity_strings :
    (rx [0x7E, 0x4D, 0x00, 0x00, 0xE7]).hostTx = [0x7E, 0x4D, 0x04, 0x00, 0xF0, 0x7F, 0x41, 0x42, 0xE7]
      ∧ (rx [0x7E, 0x4E, 0x00, 0x00, 0xE7]).hostTx = [0x7E, 0x4E, 0x03, 0x00, 0x01, 0x00, 0x57, 0xE7] := by exact ⟨rfl, rfl⟩
/-- V34. -/
def v34 : State := rx [0x7E, 0x06, 0x04, 0x00, 0x00, 0x10, 0x20, 0x30, 0xE7]
theorem test_output_only :
    v34.dmxBuf.take 5 = [0x00, 0x10, 0x20, 0x30, 0x00] ∧ v34.outputLength = 4 ∧ v34.outputElapsedUs = 5000
      ∧ v34.busLog = [.dir .output true] ∧ v34.outputOnly = true := by exact ⟨rfl, rfl, rfl, rfl, rfl⟩
set_option maxRecDepth 20000 in
/-- V35, V36: the lengths 0, 1, 2 and above 513. -/
theorem test_output_only_lengths :
    (outputCount tp [], outputCount tp [7], outputCount tp (copies 513 7), outputCount tp (copies 600 7)) = (0, 1, 513, 513)
      ∧ (copySlots tp (copies 513 0xEE) [7]).take 2 = [0xEE, 0xEE] ∧ (copySlots tp (copies 513 0xEE) [7, 8]).take 3 = [0xEE, 8, 0xEE] := by
  exact ⟨rfl, rfl, rfl⟩
/-- V39a, V39c. -/
theorem test_receive_dmx_on_change :
    let t := rx [0x7E, 0x08, 0x01, 0x00, 0x01, 0xE7] { st with dmxBuf := copies 513 9, cosShadow := copies 513 9 }
    let u := rx [0x7E, 0x08, 0x00, 0x00, 0xE7] { st with receivePolicy := 1 }
    t.receivePolicy = 1 ∧ t.dmxBuf.take 2 = [0, 0] ∧ t.cosShadow.take 2 = [0, 0]
      ∧ t.busLog = [.dir .input false, .dir .input true] ∧ u.receivePolicy = 1 := by exact ⟨rfl, rfl, rfl, rfl, rfl⟩
/-- V31, V32: label 11, and label 7 with a discovery-class payload. -/
theorem test_discovery_request :
    let t := sendRdmDiscoveryRequest v40 st
    let u := sendRdmPacket tp v40 st
    t.rdmDiscoveryRunning = true ∧ t.deadline = some 5000 ∧ t.busLog = [.dir .output true, .send v40, .dir .input true]
      ∧ u.rdmDiscoveryRunning = true := by exact ⟨rfl, rfl, rfl, rfl⟩
/-- V30, V33: a class that is not discovery, and an empty payload, clear the flag. -/
theorem test_send_rdm_packet :
    (sendRdmPacket tp v54 { st with rdmDiscoveryRunning := true }).rdmDiscoveryRunning = false
      ∧ (rx [0x7E, 0x07, 0x00, 0x00, 0xE7] { st with rdmDiscoveryRunning := true }).rdmDiscoveryRunning = false := by
  exact ⟨rfl, rfl⟩
/-- V37: an unknown label. -/
theorem test_unknown :
    rx [0x7E, 0x63, 0x01, 0x00, 0x01, 0xE7] { st with outputOnly := true }
      = { st with outputOnly := true, trace := [.unknownLabel 0x63], codec := (rx [0x7E, 0x63, 0x01, 0x00, 0x01, 0xE7]).codec } := by
  rfl

/-! ### RDM engine -/

/-- V20, V21, V22. -/
theorem test_dub_response :
    dubResponse tp.myUid = v20
      ∧ (dubResponse ⟨0xFF, 0xFF, 0xFF, 0xFF, 0xFF, 0xFF⟩).drop 20 = [0xAB, 0x5F, 0xFE, 0xF5]
      ∧ (dubResponse ⟨0, 0, 0, 0, 0, 0⟩).drop 18 = [0xAA, 0x55, 0xAF, 0x55, 0xFA, 0xFF] := by decide
/-- V40, muted or not; V42c: 35 bytes. -/
theorem test_dub :
    (bus v40).busLog = [.send v20] ∧ (bus v40 true).busLog = [] ∧ (bus (v40.take 35)).busLog = []
      ∧ (bus (v40.take 36)).busLog = [.send v20] ∧ (bus v40).deadline = some 200 := by decide
/-- V41, V42, V42a: the bounds are inclusive. -/
theorem test_dub_bounds :
    inRange tp ⟨0x7F, 0xF0, 0x12, 0x34, 0x56, 0x79⟩ ⟨0xFF, 0xFF, 0xFF, 0xFF, 0xFF, 0xFF⟩ = false
      ∧ inRange tp ⟨0x7F, 0xF0, 0x12, 0x34, 0x56, 0x78⟩ ⟨0x7F, 0xF0, 0x12, 0x34, 0x56, 0x78⟩ = true
      ∧ inRange tp ⟨0, 0, 0, 0, 0, 0⟩ ⟨0x7F, 0xF0, 0x12, 0x34, 0x56, 0x77⟩ = false := by decide
/-- V43, V44. -/
theorem test_mute_and_un_mute :
    (bus v43).rdmIsMuted = true ∧ (bus v43).busLog = [.send [0x00, 0x00]] ∧ (bus v43).hostTx = []
      ∧ (bus v44 true).rdmIsMuted = false ∧ (bus v44 true).busLog = [.send [0x00, 0x00]] := by decide
/-- V45. -/
theorem test_malformed_un_mute :
    let t := bus (short me controller 4 1 0x10 [0x00, 0x03] 1 [0x00, 0x04, 0xF2]) true
    t.rdmIsMuted = true ∧ t.busLog = [] ∧ t.trace = [.malformedRdmRequest 3 1] := by decide
/-- V48, V51, V52: vendorcast, another manufacturer, another device. -/
theorem test_addressing :
    let f := [0xFF, 0xFF, 0xFF, 0xFF]
    (bus (short ([0x7F, 0xF0] ++ f) controller 5 1 0x10 [0x00, 0x02] 0 [])).rdmIsMuted = true
      ∧ (bus (short ([0x7F, 0xF1] ++ f) controller 5 1 0x10 [0x00, 0x02] 0 [])).trace
        = [.addressMismatch ⟨0x7F, 0xF1, 0xFF, 0xFF, 0xFF, 0xFF⟩]
      ∧ (bus (short [0x7F, 0xF0, 0x12, 0x34, 0x56, 0x79] controller 5 1 0x10 [0x00, 0x02] 0 [])).rdmIsMuted = false := by decide
/-- V53, V54: nothing, the deadline kept. -/
theorem test_ignored_and_get :
    bus v53 = { st with deadline := some 200 } ∧ bus v54 = { st with deadline := some 200 } := by exact ⟨rfl, rfl⟩
/-- V46, V46b: forwarded through the checksum, or as far as the bytes go; no timeout frame. -/
theorem test_other_class :
    (bus v46).hostTx = [0x7E, 0x05, 0x1D, 0x00, 0x00] ++ v46 ++ [0xE7] ∧ (bus v46).deadline = none ∧ (bus v46).trace = []
      ∧ (bus (v46.take 26)).hostTx = [0x7E, 0x05, 0x1B, 0x00, 0x00] ++ v46.take 26 ++ [0xE7] := by decide
/-- V56. -/
theorem test_discovery_response :
    (bus v56).hostTx = [0x7E, 0x05, 0x1D, 0x00, 0x00] ++ v56 ++ [0xE7, 0x7E, 0x0C, 0x00, 0x00, 0xE7]
      ∧ (bus v56).deadline = none ∧ (bus v56).trace = [.rdmResponseTimeout] := by decide
/-- V57, V58: the 0xFE test comes before the length test. -/
theorem test_raw_response :
    (bus [0xFE, 0xFE, 0xAA]).hostTx
        = [0x7E, 0x05, 0x04, 0x00, 0x00, 0xFE, 0xFE, 0xAA, 0xE7, 0x7E, 0x0C, 0x00, 0x00, 0xE7]
      ∧ (bus (v40.take 10)).hostTx = [] ∧ (bus (v40.take 10)).trace = [] := by decide
/-- R152: the guard vectors after V58. -/
theorem test_guard :
    let s := { st with busRdm := some v43 }
    (rdmInDispatch tp { s with mode := .rdmSniffer }).busRdm = some v43
      ∧ (rdmInDispatch tp { s with receivePolicy := 1 }).busRdm = some v43
      ∧ (rdmInDispatch tp { s with receivePolicy := 2 }).busRdm = none
      ∧ (rdmInDispatch tp { s with mode := .dmx }).rdmIsMuted = true := by decide
/-- R25, R166, R70: the seven fields of V46; V46b, cut before its checksum; V40 cut inside its parameter data. -/
theorem test_view_command :
    viewCommand v46
        = some ⟨⟨0x7F, 0xF0, 0x12, 0x34, 0x56, 0x78⟩, ⟨0x7F, 0xF0, 0xAA, 0xBB, 0xCC, 0xDD⟩, 0x21, 0x00F0, [0x00, 0x01],
          0x1A, some 0x0902⟩
      ∧ (viewCommand (v46.take 26)).map (fun r => (r.paramData, r.checksum)) = some ([0x00, 0x01], none)
      ∧ (viewCommand (v40.take 30)).map (fun r => (r.paramData, r.checksum)) = some ([0, 0, 0, 0, 0, 0], none) := by
  decide
/-- R196: V42c, V40 while muted or not, and V54, which is no Discovery-Unique-Branch request. -/
theorem test_silent_dub :
    (viewPacket (v40.take 35)).map (shortDubRequest tp) = some true
      ∧ (viewPacket v40).map (shortDubRequest tp) = some false ∧ (viewPacket v54).map (shortDubRequest tp) = some false
      ∧ (viewPacket v40).map (fun v => mutedOrOutOfRange tp v { st with rdmIsMuted := true }) = some true
      ∧ (viewPacket v40).map (fun v => mutedOrOutOfRange tp v st) = some false
      ∧ (viewPacket v54).map (fun v => mutedOrOutOfRange tp v { st with rdmIsMuted := true }) = some false := by decide
/-- R96, R196: after a payload of one byte, a stray byte before a late end marker; and the same byte in a frame that is
discarded (CAP 3). -/
theorem test_silent_stray :
    let c := (decodeBytes tp3 (Codec.idle tp3) [0x7E, 0x05, 0x01, 0x00, 0xAA]).codec
    strayBeforeEnd tp3 c 0xBB [0xE7] = true ∧ strayBeforeEnd tp3 c 0xBB [0xBB, 0xBB, 0xE7] = false := by decide
/-- R81: the notation of V43. -/
theorem test_standard_packet :
    standardPacket tp.rdm tp.myUid ⟨0x7F, 0xF0, 0x00, 0x00, 0x00, 0x01⟩ 2 1 0x10 2 [] = v43 := by decide
/-- R78: the note on V43. -/
theorem test_standard_ack :
    standardAckEnvelope tp.rdm tp.myUid v43 [0x00, 0x00]
      = [0xCC, 0x01, 0x1A, 0x7F, 0xF0, 0x00, 0x00, 0x00, 0x01, 0x7F, 0xF0, 0x12, 0x34, 0x56, 0x78, 0x02, 0x00, 0x00, 0x00,
        0x00, 0x11, 0x00, 0x02, 0x02, 0x00, 0x00, 0x04, 0xF1] := by decide

/-! ### Scheduler and scheduled actions -/

/-- V17. -/
theorem test_sched_init :
    (nextOf (schedIteration tp { State.resetWith tp with clock := 100 })).map (fun s => (s.lastFire, s.schedStarted, s.pc))
      = some ([100, 100, 100, 100], true, ⟨.poll, 0⟩) := by rfl
/-- V18, V19: due at exactly one period, and made up one at a time. -/
theorem test_event_check :
    let at_ := fun (now last : U64) => (checkEntry tp 0 1000 .heartbeat { st with lastFire := [last], nowE := now }).lastFire
    at_ 1099 100 = [100] ∧ at_ 1100 100 = [1100] ∧ at_ 3500 1100 = [2100] ∧ at_ 3501 2100 = [3100] ∧ at_ 3502 3100 = [3100] := by
  decide
/-- V19b: the clock sample is taken once, at (EVENT, 0). -/
theorem test_event_step :
    (nextOf (schedIteration tp { st with pc := ⟨.event, 0⟩ })).map (fun s => (s.nowE, s.pc)) = some (5000, ⟨.event, 1⟩)
      ∧ (nextOf (schedIteration tp { st with pc := ⟨.event, 3⟩ })).map (fun s => (s.nowE, s.pc)) = some (0, ⟨.poll, 0⟩) := by
  exact ⟨rfl, rfl⟩
/-- V60, V61. -/
theorem test_pump :
    let s := { v34 with outputPeriodUs := 25000, busLog := [] }
    dmxOutPump { s with clock := 29999 } = { s with clock := 29999 }
      ∧ (dmxOutPump { s with clock := 30000 }).busLog = [.send [0x00, 0x10, 0x20, 0x30]]
      ∧ (dmxOutPump { s with clock := 90000 }).outputElapsedUs = 30000 := by exact ⟨rfl, rfl, rfl⟩
/-- V63, V64, the buffer cut to three bytes: the start code reported is 0. -/
theorem test_dmx_in_forward :
    let s := { st with dmxBuf := [0x17, 0x05, 0x06], busDmxFresh := true }
    let t := dmxInForward tp s
    t.hostTx = [0x7E, 0x05, 0x04, 0x00, 0x00, 0x00, 0x05, 0x06, 0xE7] ∧ t.busDmxFresh = false
      ∧ (dmxInForward tp { s with rdmDiscoveryRunning := true }).hostTx = []
      ∧ (dmxInForward tp { s with portDirection := .output }).hostTx = []
      ∧ (dmxInForward tp { s with receivePolicy := 2 }).hostTx = [] := by exact ⟨rfl, rfl, rfl, rfl, rfl⟩
set_option maxRecDepth 20000 in
/-- V65, the buffers cut to their first slots. -/
theorem test_change_of_state :
    let s := { st with receivePolicy := 1, dmxBuf := [0, 0, 0, 0, 0, 7], cosShadow := [], busDmxFresh := true }
    let t := changeOfState tp s
    t.hostTx = [0x7E, 0x09, 0x06, 0x00, 0, 0, 0, 0, 0, 7, 0xE7] ∧ byteAt t.cosShadow 5 = 7 ∧ t.busDmxFresh = false
      ∧ (changeOfState tp { t with busDmxFresh := true }).hostTx.length = 11 := by exact ⟨rfl, rfl, rfl, rfl⟩
/-- V66, V67: strict. -/
theorem test_timeout :
    let s := { st with deadline := some 5000 }
    (rdmTimeoutCheck tp { s with nowE := 1005000 }).hostTx = []
      ∧ (rdmTimeoutCheck tp { s with nowE := 1005001 }).hostTx = [0x7E, 0x0C, 0x00, 0x00, 0xE7]
      ∧ (rdmTimeoutCheck tp { s with nowE := 1005001 }).deadline = none
      ∧ (rdmTimeoutCheck tp { s with deadline := none, nowE := 1005001 }).hostTx = [] := by decide

/-! ### Witnesses: for each statement with hypotheses, instances that meet them together, at the boundaries of its clauses -/

/-- A state after SCHED_INIT with the machine's own parameters, at the given `pc`. -/
def ready (phase : Phase) (index : Nat) : State :=
  { State.reset with
    schedStarted := true
    pc := ⟨phase, index⟩
    mode := .dmxRdm
    clock := 3000000 }

/-- A broadcast DISC_MUTE and DISC_UN_MUTE: addressed whatever MY_UID is. -/
def everyone (cc : Byte) (pid : Byte) : List Byte :=
  short [0xFF, 0xFF, 0xFF, 0xFF, 0xFF, 0xFF] controller 5 1 cc [0x00, pid] 0 []

theorem witness_EncodeThenDecodeReturnsTheFrame :
    tp.cap ≤ 65535 ∧ (Codec.idle tp).decState = .hunt ∧ (Codec.idle tp).rxBuf.length = tp.cap :=
  ⟨by decide, rfl, by simp [Codec.idle]⟩

theorem witness_DeliveredFrameIsWhole :
    (Codec.idle tp3).decState = .hunt ∧ (Codec.idle tp3).rxBuf.length = tp3.cap
      ∧ (decodeBytes tp3 (Codec.idle tp3) [0x7E, 0x08, 0x01, 0x00, 0x01, 0x33, 0x44, 0xE7, 0x11]).event = .frame ⟨8, [0x01]⟩
      ∧ (decodeBytes tp3 (Codec.idle tp3) [0x7E, 0x08, 0x03, 0x00, 1, 2, 3, 0xE7]).event = .frame ⟨8, [1, 2, 3]⟩ := by decide

theorem witness_DiscardCostsCapPlusFiveBytes :
    (Codec.idle tp3).decState = .hunt ∧ (Codec.idle tp3).rxBuf.length = tp3.cap
      ∧ (decodeBytes tp3 (Codec.idle tp3) [0x7E, 0x08, 0x00, 0x00, 0, 0, 0, 0, 0xE7]).event = .discard 8 0
      ∧ (decodeBytes tp3 (Codec.idle tp3) [0x7E, 0x08, 0x04, 0x00, 1, 1, 1, 1, 0xE7]).event = .discard 8 4 := by decide

theorem witness_DecoderResumesWhereInputRanOut :
    (decodeBytes tp (Codec.idle tp) [0x7E, 0x0A, 0x00]).event = .none := by rfl

/-- Each of the three clauses, at the boundary where the next state turns. -/
theorem witness_FramerStoresLengthAndPayload :
    let c : Codec := { Codec.idle tp3 with decState := .lenHi }
    let d : Codec := { Codec.idle tp3 with decState := .payload, rxLen := 2 }
    (decStep tp3 { c with decState := .lenLo } 0xFF).1.rxLen = 0x00FF
      ∧ (decStep tp3 c 0).1.decState = .endSearch ∧ (decStep tp3 { c with rxLen := 1 } 0).1.decState = .payload
      ∧ (decStep tp3 c 0x02).1.rxLen = 0x0200
      ∧ d.rxCnt < min d.rxLen.toNat tp3.cap ∧ (decStep tp3 d 9).1.decState = .payload
      ∧ (decStep tp3 { d with rxCnt := 1 } 9).1.decState = .endSearch := by decide

theorem tp_wf : tp.EncodingWf := ⟨by decide, by decide, by decide, by decide, by decide⟩

theorem witness_DecodeOfEncodeIsTheInstruction :
    tp.EncodingWf ∧ (Instr.getWidgetSn [7]).wf tp = true ∧ encode tp (.getWidgetSn [7]) = some (.host [0x7E, 0x0A, 0x01, 0x00, 0x07, 0xE7])
      ∧ (Instr.discMute (ops 2 1 0 [0x04, 0xED])).wf tp = true
      ∧ encode tp (.discMute (ops 2 1 0 [0x04, 0xED])) = some (.bus v43) := ⟨tp_wf, rfl, rfl, rfl, rfl⟩

theorem witness_EveryPacketByteIsKept :
    decodePacket tp (v43.take 24) = .ok (.discMute (ops 2 1 0 [])) ∧ decodePacket tp (v43.take 23) = .error .shortRdmPacket
      ∧ decodePacket tp [0xFE] = .ok (.rawDiscoveryResponse []) := ⟨rfl, rfl, rfl⟩

theorem witness_OutputOnlyCopiesTheSlots : State.reset.dmxBuf.length = 513 :=
  List.length_replicate ..

theorem witness_EngineRunsTheDecodedPacket :
    (∃ o, decodePacket Config.params (everyone 0x10 2) = .ok (.discMute o)) ∧ uidAt (everyone 0x10 2) 3 = ⟨255, 255, 255, 255, 255, 255⟩
      ∧ decodePacket Config.params [0xFE] = .ok (.rawDiscoveryResponse [])
      ∧ decodePacket Config.params (v43.take 23) = .error .shortRdmPacket := ⟨⟨_, rfl⟩, rfl, rfl, rfl⟩

theorem witness_TimeoutPathReportsOnceAndHeartbeatIsSilent : ∃ t, exec .timeoutPath (ready .event 2) = .next t := ⟨_, rfl⟩

theorem witness_EventCheckFiresAtMostOnce :
    Config.params.eventTable[0]? = some (Config.pDmxIn, .dmxInForward)
      ∧ Config.params.eventTable[3]? = some (Config.pHeartbeat, .heartbeat) := ⟨rfl, rfl⟩

/-- The last `pc` inside each table and the first outside. -/
theorem witness_StepRunsTheEntryAtPc :
    State.reset.pc = ⟨.init, 0⟩ ∧ (ready .poll 2).pc = ⟨.poll, 2⟩ ∧ Config.params.pollTable[2]? = some .dmxOutPump
      ∧ (ready .event 3).pc = ⟨.event, 3⟩ ∧ step (ready .init 1) = .fault (.pcOutsideTables ⟨.init, 1⟩)
      ∧ step (ready .poll 3) = .fault (.pcOutsideTables ⟨.poll, 3⟩)
      ∧ step (ready .event 4) = .fault (.pcOutsideTables ⟨.event, 4⟩)
      ∧ exec (.eventCheck 4) State.reset = .fault (.noSuchEvent 4) := ⟨rfl, rfl, rfl, rfl, rfl, rfl, rfl, rfl⟩

theorem witness_StepRunsTheDecodedInstruction :
    let s := { ready .poll 0 with hostRx := [0x7E, 0x0A, 0x00, 0x00, 0xE7] }
    let t := { ready .poll 1 with busRdm := some (everyone 0x10 2) }
    s.pc = ⟨.poll, 0⟩ ∧ (decodeBytes Config.params s.codec s.hostRx).event = .frame ⟨10, []⟩
      ∧ t.pc = ⟨.poll, 1⟩ ∧ t.mode ≠ .rdmSniffer ∧ t.receivePolicy ≠ 1 ∧ t.busRdm = some (everyone 0x10 2)
      ∧ (∃ i, decodePacket Config.params (everyone 0x10 2) = .ok i)
      ∧ uidAt (everyone 0x10 2) 3 = ⟨0xFF, 0xFF, 0xFF, 0xFF, 0xFF, 0xFF⟩ :=
  ⟨rfl, rfl, rfl, by decide, by decide, rfl, ⟨_, rfl⟩, rfl⟩

theorem witness_SevenStepsAreOneIteration : (ready .poll 0).pc = ⟨.poll, 0⟩ := rfl

/-- Two whole periods late; and exactly one period late. -/
theorem witness_LateEventFiresOncePerCheck :
    let s := { st with lastFire := [1100], nowE := 3500 }
    let u := { st with lastFire := [1100], nowE := 2100 }
    0 < s.lastFire.length ∧ (s.lastFire.getD 0 0).toNat + 2 * (1000 : U64).toNat ≤ s.nowE.toNat
      ∧ s.nowE.toNat < (s.lastFire.getD 0 0).toNat + (2 + 1) * (1000 : U64).toNat
      ∧ (s.lastFire.getD 0 0).toNat + (2 + 1) * (1000 : U64).toNat < 2 ^ 64
      ∧ (u.lastFire.getD 0 0).toNat + 1 * (1000 : U64).toNat ≤ u.nowE.toNat
      ∧ u.nowE.toNat < (u.lastFire.getD 0 0).toNat + (1 + 1) * (1000 : U64).toNat := by decide

/-- A legal state past reset, and its step. -/
theorem witness_StepKeepsLegalStates :
    let s := { ready .poll 0 with mode := Config.params.mode }
    Legal Config.params s ∧ ∃ t, step s = .next t := by
  refine ⟨⟨⟨?_, ?_, ?_⟩, ⟨?_, ?_, ?_, ?_⟩, .inl ?_, ?_, ?_, ?_, rfl, ?_⟩, _, rfl⟩ <;>
    simp [ready, State.reset, State.resetWith, Codec.idle, Config.params, Config.pollTable, Config.eventTable]

theorem witness_NoRunStops : Reachable tp (State.resetWith tp) := .reset

theorem witness_StoredTimesStayInThePast :
    let s := { ready .event 2 with deadline := some 5000, nowE := 1005001 }
    TimesPast s ∧ DeadlineBeforeSample s ∧ ∃ t, step s = .next t ∧ t.pc = ⟨.event, 3⟩ := by
  refine ⟨⟨?_, by decide, by decide, ?_⟩, ?_, _, rfl, rfl⟩
  · intro t h
    cases h
    decide
  · intro t h
    have e : t = 0 := by
      simpa [ready, State.reset, State.resetWith, Config.params, Config.eventTable] using h
    rw [e]
    decide
  · intro _ _ t h
    cases h
    decide

/-- Both directions of the change. -/
theorem witness_OnlyMuteRequestsChangeTheFlag :
    (∃ t, step { ready .poll 1 with busRdm := some (everyone 0x10 2) } = .next t ∧ t.rdmIsMuted = true)
      ∧ ∃ t, step { ready .poll 1 with busRdm := some (everyone 0x10 3), rdmIsMuted := true } = .next t ∧ t.rdmIsMuted = false :=
  ⟨⟨_, rfl, rfl⟩, ⟨_, rfl, rfl⟩⟩

theorem witness_OnlyRdmCommandsChangeDiscoveryRunning :
    (∃ t, step { ready .poll 0 with hostRx := [0x7E, 0x0B, 0x00, 0x00, 0xE7] } = .next t ∧ t.rdmDiscoveryRunning = true)
      ∧ ∃ t, step { ready .poll 0 with hostRx := [0x7E, 0x07, 0x00, 0x00, 0xE7], rdmDiscoveryRunning := true } = .next t
        ∧ t.rdmDiscoveryRunning = false := ⟨⟨_, rfl, rfl⟩, ⟨_, rfl, rfl⟩⟩

theorem witness_OnlyTheseLabelsChangeOutputOnly :
    (∃ t, step { ready .poll 0 with hostRx := [0x7E, 0x06, 0x00, 0x00, 0xE7] } = .next t ∧ t.outputOnly = true)
      ∧ ∃ t, step { ready .poll 0 with hostRx := [0x7E, 0x0A, 0x00, 0x00, 0xE7], outputOnly := true } = .next t
        ∧ t.outputOnly = false := ⟨⟨_, rfl, rfl⟩, ⟨_, rfl, rfl⟩⟩

/-- Armed by label 11; disarmed by a response from the bus, and by EVENT_CHECK's timeout one microsecond after the limit. -/
theorem witness_OnlyTransmitArmsTheDeadline :
    (∃ t, step { ready .poll 0 with hostRx := [0x7E, 0x0B, 0x00, 0x00, 0xE7] } = .next t ∧ t.deadline = some 3000000)
      ∧ (∃ t, step { ready .poll 1 with busRdm := some (everyone 0x21 1), deadline := some 9 } = .next t ∧ t.deadline = none)
      ∧ (rdmTimeoutCheck tp { st with deadline := some 5000, nowE := 1005001 }).deadline = none :=
  ⟨⟨_, rfl, rfl⟩, ⟨_, rfl, rfl⟩, rfl⟩

theorem witness_StepOnlyAppendsItsOutputs : ∃ t, step State.reset = .next t := ⟨_, rfl⟩

theorem witness_HostOutputIsWholeFrames : Reachable Config.params (State.resetWith Config.params) := .reset

theorem witness_QuiescentBlockStaysSo : Quiescent (ready .poll 0) ∧ ∃ t, step (ready .poll 0) = .next t :=
  ⟨⟨rfl, rfl, rfl, rfl, rfl, rfl⟩, _, rfl⟩

/-- A buffer of the right length is taken. -/
theorem test_dmx_packet_move (s : State) (b : List Byte) (h : b.length = tp.dmxBufLen) :
    ∃ t, envMove tp s (.dmxPacket b) = some t := ⟨_, if_pos h⟩

/-- Every move; and the last tick that does not pass 2^64 - 1. -/
theorem witness_EnvironmentMovesOnlyItsPorts :
    (∃ t, envMove tp st (.hostBytes [1]) = some t) ∧ (∃ t, envMove tp st (.offerPacket [1]) = some t)
      ∧ (∃ t, envMove tp st (.dmxPacket (List.replicate tp.dmxBufLen 7)) = some t) ∧ (∃ t, envMove tp st (.tick 1) = some t)
      ∧ envMove tp { st with clock := -1 } (.tick 1) = none :=
  ⟨⟨_, rfl⟩, ⟨_, rfl⟩, test_dmx_packet_move _ _ List.length_replicate, ⟨_, rfl⟩, rfl⟩

end Sys2Proof.Tests
end

section
/-! The Discovery-Unique-Branch response of 30_encoding.md section 4, byte by byte. -/

namespace Sys2Proof.Machine

/-- R77: `CS` with its fold over the UID bytes written out. -/
theorem dubChecksum_eq_sum (u : Uid) :
    dubChecksum u = 6 * 0xFF + u.m0.setWidth 16 + u.m1.setWidth 16 + u.d0.setWidth 16 + u.d1.setWidth 16
      + u.d2.setWidth 16 + u.d3.setWidth 16 := by
  have base : zext16 0xFF = 0xFF := rfl
  simp only [dubChecksum, Uid.bytes, List.map_cons, List.map_nil, List.foldl_cons, List.foldl_nil, base]
  simp only [zext16]

/-- R75, R76: the preamble, the separator and the eight masked pairs. -/
theorem dubResponse_eq_pairs (u : Uid) :
    dubResponse u = [0xFE, 0xFE, 0xFE, 0xFE, 0xFE, 0xFE, 0xFE, 0xAA,
      u.m0 ||| 0xAA, u.m0 ||| 0x55, u.m1 ||| 0xAA, u.m1 ||| 0x55, u.d0 ||| 0xAA, u.d0 ||| 0x55,
      u.d1 ||| 0xAA, u.d1 ||| 0x55, u.d2 ||| 0xAA, u.d2 ||| 0x55, u.d3 ||| 0xAA, u.d3 ||| 0x55,
      hiByte (dubChecksum u) ||| 0xAA, hiByte (dubChecksum u) ||| 0x55,
      loByte (dubChecksum u) ||| 0xAA, loByte (dubChecksum u) ||| 0x55] := by
  simp only [dubResponse, Uid.bytes, maskPair, List.flatMap_cons, List.flatMap_nil, List.replicate_succ,
    List.replicate_zero, List.cons_append, List.nil_append]

/-- Settles O24: DUBRESP is one `busSend` of the response, whose bytes and checksum are those of R75 and R77. -/
theorem dubrespSendsTheEncodedUid : Obligations.DubrespSendsTheEncodedUid := by
  intro s
  refine ⟨Config.params.myUid, dubChecksum Config.params.myUid, rfl, dubChecksum_eq_sum _, ?_⟩
  simp only [exec_dubresp, sendDubResponse, busSend, dubResponse_eq_pairs, hiByte, loByte]

end Sys2Proof.Machine
end

section
/-! The frame codec of 40_frame_codec.md: the framer's steps that store the length and the payload, and the round trip
of a frame through ENCODE and the decoder. -/

namespace Sys2Proof.Machine

/-- Settles O5: each clause is the step equation of its state, the payload clause with `min(RX_LEN, CAP)` under its name
`Codec.stored`. -/
theorem framerStoresLengthAndPayload : Obligations.FramerStoresLengthAndPayload := by
  intro P c b
  refine ⟨fun hlo => ?_, fun hhi => ?_, fun hpay _ => ?_⟩
  · exact decStep_lenLo P c b hlo
  · exact decStep_lenHi P c b hhi
  · exact decStep_payload P c b hpay

/-- The framer after the four header bytes of a frame (R91 to R94); `RX_BUF` is untouched. -/
def codecAfterHeader (P : Params) (c : Codec) (label : Byte) (len : U16) : Codec :=
  { c with
    rxLabel := label
    rxLen := len
    rxCnt := 0
    decState := if 0 < min len.toNat P.cap then .payload else .endSearch }

/-- R91 to R94: a framer in HUNT consumes the start marker, the label and the two length bytes without an event. -/
theorem decodeBytes_header (P : Params) (c : Codec) (label lo hi : Byte) (bs : List Byte) (hs : c.decState = .hunt) :
    decodeBytes P c (P.startByte :: label :: lo :: hi :: bs)
      = decodeBytes P (codecAfterHeader P c label (word16 lo hi)) bs := by
  have start := decStep_hunt P c P.startByte hs
  rw [if_pos rfl] at start
  rw [decodeBytes_cons_none _ start, decodeBytes_cons_none _ (decStep_label P _ label rfl),
    decodeBytes_cons_none _ (decStep_lenLo P _ lo rfl), decodeBytes_cons_none _ (decStep_lenHi P _ hi rfl)]
  rfl

/-- R95: after the header, the payload bytes to be stored (there may be none) leave the framer in END_SEARCH with
those bytes at the front of `RX_BUF`. -/
theorem decodeBytes_codecAfterHeader (P : Params) (c : Codec) (label : Byte) (len : U16) (q rest : List Byte)
    (hb : c.rxBuf.length = P.cap) (hq : q.length = min len.toNat P.cap) :
    ∃ c', decodeBytes P (codecAfterHeader P c label len) (q ++ rest) = decodeBytes P c' rest
      ∧ c'.decState = .endSearch ∧ c'.rxLabel = label ∧ c'.rxBuf.take (c'.stored P) = q := by
  cases q with
  | nil =>
    have none_stored : min len.toNat P.cap = 0 := hq.symm
    refine ⟨codecAfterHeader P c label len, rfl, ?_, rfl, ?_⟩
    · simp [codecAfterHeader, none_stored]
    · simp [codecAfterHeader, Codec.stored, none_stored]
  | cons b q =>
    have some_stored : 0 < min len.toNat P.cap := by simp [← hq]
    obtain ⟨c', hrun, hstate, hlen, hlabel, -, hbuf⟩ :=
      decodeBytes_payload P rest (b :: q) (codecAfterHeader P c label len) (if_pos some_stored) hq (by simp) hb
    refine ⟨c', hrun, hstate, hlabel, ?_⟩
    have stored_eq : c'.stored P = (b :: q).length := by
      rw [hq, Codec.stored, hlen]
      rfl
    rw [hbuf, stored_eq]
    simp [codecAfterHeader]

/-- R96: the end marker ends the call with the stored frame, and the framer is in HUNT. -/
theorem decodeBytes_endByte (P : Params) (c : Codec) (rest : List Byte) (hs : c.decState = .endSearch) :
    decodeBytes P c (P.endByte :: rest)
      = { codec := { c with decState := .hunt }, rest := rest,
          event := .frame { label := c.rxLabel, payload := c.rxBuf.take (c.stored P) } } := by
  have e := decStep_endSearch P c P.endByte hs
  rw [if_pos rfl] at e
  exact decodeBytes_cons_frame rest e

/-- R100, R101: the bytes of a frame: the four of the header, the payload cut at CAP, the end marker. -/
theorem encodeFrame_append (P : Params) (label : Byte) (payload rest : List Byte) :
    encodeFrame P label payload ++ rest
      = P.startByte :: label :: loByte (BitVec.ofNat 16 (min payload.length P.cap))
          :: hiByte (BitVec.ofNat 16 (min payload.length P.cap)) :: (payload.take P.cap ++ P.endByte :: rest) := by
  have cut : payload.take (min payload.length P.cap) = payload.take P.cap := by
    rw [Nat.min_comm, ← List.take_eq_take_min]
  simp [encodeFrame, cut]

/-- Settles O1: the header gives the framer the cut payload's length (CAP at most 65535 makes the 16-bit length exact),
the payload is stored, and the end marker delivers it. -/
theorem encodeThenDecodeReturnsTheFrame : Obligations.EncodeThenDecodeReturnsTheFrame := by
  intro P c label payload rest hcap hs hb
  refine ⟨encodeFrame_length P label payload, ?_⟩
  have cut_length : (payload.take P.cap).length
      = min (BitVec.ofNat 16 (min payload.length P.cap)).toNat P.cap := by
    rw [List.length_take, BitVec.toNat_ofNat]
    omega
  obtain ⟨c', hrun, hstate, hlabel, hstored⟩ :=
    decodeBytes_codecAfterHeader P c label _ (payload.take P.cap) (P.endByte :: rest) hb cut_length
  refine ⟨{ c' with decState := .hunt }, ?_, rfl⟩
  rw [encodeFrame_append, decodeBytes_header P c _ _ _ _ hs, word16_lo_hi, hrun,
    decodeBytes_endByte P c' rest hstate, hlabel, hstored]

end Sys2Proof.Machine
end

section
/-! The Scheduler of 41_scheduler.md section 3: seeding the counters and checking one event. -/

namespace Sys2Proof.Machine

/-- R111: the default event table has four entries, so the sample is stored four times. -/
theorem schedInit_default (s : State) :
    schedInit Config.params s
      = { s with lastFire := List.replicate 4 s.clock, schedStarted := true, pc := { phase := .poll, index := 0 } } := by
  have seeds : Config.params.eventTable.map (fun _ => s.clock) = List.replicate 4 s.clock := List.map_const' ..
  simp only [schedInit, setPc, clockNow, seeds]

/-- Settles O41. -/
theorem schedInitSeedsEveryCounter : Obligations.SchedInitSeedsEveryCounter := by
  intro s
  rw [exec_schedInit, schedInit_default]

/-- R116 with the comparison of R118 written out. -/
theorem eventDue_iff (now lastFire period : U64) :
    eventDue now lastFire period = true ↔ (lastFire + period).toNat ≤ now.toNat :=
  decide_eq_true_iff

/-- R116: an action writes no counter, so the counter advanced after it is the one that was compared before it. -/
theorem advanceLastFire_runAction (P : Params) (j : Nat) (period : U64) (s : State) (a : Action) :
    advanceLastFire j period (runAction P s a)
      = { runAction P s a with lastFire := s.lastFire.set j (s.lastFire.getD j 0 + period) } := by
  obtain ⟨-, counters_kept, -⟩ := runAction_kept P s a
  simp only [advanceLastFire, lastFireAt, counters_kept]

/-- Settles O42, by the two outcomes of a check of an entry of the default table. -/
theorem eventCheckFiresAtMostOnce : Obligations.EventCheckFiresAtMostOnce := by
  intro j period action s entry
  refine ⟨runAction Config.params s action, exec_action action s, ?_⟩
  rw [exec_eventCheck entry]
  rcases checkEntry_default Config.params j period s (eventTable_action entry) with ⟨early, kept⟩ | ⟨due, fired⟩
  · have not_due := mt (eventDue_iff s.nowE (s.lastFire.getD j 0) period).2 (Bool.eq_false_iff.1 early)
    rw [kept, if_neg not_due]
  · have is_due := (eventDue_iff s.nowE (s.lastFire.getD j 0) period).1 due
    rw [fired, if_pos is_due, advanceLastFire_runAction]

end Sys2Proof.Machine
end

section
/-! The host commands of 42_host_commands.md: what a reply and the transmit sequence write, and the handler that
DISPATCH selects, by the numbers of the labels. -/

namespace Sys2Proof.Machine

/-- R8: writing a frame appends its bytes to `HOST_TX`, and is nothing else. -/
theorem emit_eq (P : Params) (label : Byte) (payload : List Byte) (s : State) :
    emit P label payload s = { s with hostTx := s.hostTx ++ encodeFrame P label payload } := rfl

/-- Settles O11: the handler is its reply frame, one `emit`. -/
theorem getWidgetParamsOnlyReplies : Obligations.GetWidgetParamsOnlyReplies := by
  intro payload s
  rw [exec_getWidgetParams, getWidgetParams, getWidgetParamsReply, emit_eq]
  rfl

/-- Settles O13: output-only mode is left, the reply is one `emit`, and the direction is forced last. -/
theorem getWidgetSnRepliesTheSerialNumber : Obligations.GetWidgetSnRepliesTheSerialNumber := by
  intro payload s
  rw [exec_getWidgetSn, getWidgetSn, getWidgetSnReply, emit_eq]
  rfl

/-- R143: the three entries of `BUS_LOG` in order, the direction the last of them leaves and the armed deadline. The
clock sampled after the transmission is the one before it, since no port call writes `CLOCK`. -/
theorem rdmTransmit_eq (bytes : List Byte) (s : State) :
    rdmTransmit bytes s
      = { s with
          busLog := s.busLog ++ [.dir .output true, .send bytes, .dir .input true]
          portDirection := .input
          deadline := some s.clock } := by
  have log_in_order : ((s.busLog ++ [.dir .output true]) ++ [.send bytes]) ++ [.dir .input true]
      = s.busLog ++ [.dir .output true, .send bytes, .dir .input true] := by
    simp only [List.append_assoc, List.cons_append, List.nil_append]
  rw [← log_in_order]
  rfl

/-- Settles O17. -/
theorem rdmTransmitFlipsTheBusAndArms : Obligations.RdmTransmitFlipsTheBusAndArms := by
  intro bytes s
  rw [exec_rdmTransmit, rdmTransmit_eq]

/-- Settles O19: the transmit sequence, run after the two flags are written; it reads neither. -/
theorem discoveryRequestRunsDiscovery : Obligations.DiscoveryRequestRunsDiscovery := by
  intro payload s
  rw [exec_sendRdmDiscoveryRequest, sendRdmDiscoveryRequest, rdmTransmit_eq]
  rfl

/-- Settles O20: the handler is `raise`, which writes the trace alone. -/
theorem unknownLabelChangesNothing : Obligations.UnknownLabelChangesNothing := by
  intro label payload s
  rw [exec_unknown, unknownLabel, raise]

/-- R66, R130: the handler a label selects, by the numbers R65 gives the labels. -/
theorem hostOpOf_default (label : Byte) :
    hostOpOf Config.params.labels label
      = if label = 3 then .getWidgetParams
        else if label = 4 then .setWidgetParams
        else if label = 6 then .outputOnlySendDmxPacket
        else if label = 7 then .sendRdmPacket
        else if label = 8 then .receiveDmxOnChange
        else if label = 10 then .getWidgetSn
        else if label = 11 then .sendRdmDiscoveryRequest
        else if label = 77 then .manufacturerLabel
        else if label = 78 then .getWidgetName
        else .unknown := rfl

/-- R66, R130: the instruction of a frame, by the numbers R65 gives the labels. -/
theorem instrOfFrame_default (f : Frame) :
    instrOfFrame Config.params f
      = (if f.label = 3 then .getWidgetParams f.payload
        else if f.label = 4 then .setWidgetParams f.payload
        else if f.label = 6 then .outputOnlySendDmxPacket f.payload
        else if f.label = 7 then .sendRdmPacket f.payload
        else if f.label = 8 then .receiveDmxOnChange f.payload
        else if f.label = 10 then .getWidgetSn f.payload
        else if f.label = 11 then .sendRdmDiscoveryRequest f.payload
        else if f.label = 77 then .manufacturerLabel f.payload
        else if f.label = 78 then .getWidgetName f.payload
        else .unknown f.label f.payload) := by
  simp only [instrOfFrame, hostOpOf_default, apply_ite (HostOp.instr f)]
  rfl

/-- R131, R137, C3: a label that neither clears output-only mode nor enters it selects GET_WIDGET_PARAMS or UNKNOWN. -/
theorem hostOpOf_keeps_outputOnly {label : Byte} (not_clearing : label ∉ ([4, 7, 8, 10, 11, 77, 78] : List Byte))
    (not_entering : label ≠ 6) :
    hostOpOf Config.params.labels label = .getWidgetParams ∨ hostOpOf Config.params.labels label = .unknown := by
  by_cases is_three : label = 3
  · subst is_three
    exact .inl rfl
  · simp only [List.mem_cons, List.not_mem_nil, or_false, not_or] at not_clearing
    exact .inr (by simp only [hostOpOf_default, is_three, not_entering, not_clearing, if_false])

/-- R131, R137: output-only mode after DISPATCH, by the three kinds of label. -/
theorem dispatch_outputOnly (f : Frame) (s : State) :
    (dispatch Config.params f s).outputOnly
      = if f.label ∈ ([4, 7, 8, 10, 11, 77, 78] : List Byte) then false
        else if f.label = 6 then true else s.outputOnly := by
  rw [dispatch, (runHostOp_fields ..).1]
  by_cases clearing : f.label ∈ ([4, 7, 8, 10, 11, 77, 78] : List Byte)
  · rw [if_pos clearing]
    simp only [List.mem_cons, List.not_mem_nil, or_false] at clearing
    rcases clearing with label | label | label | label | label | label | label <;> rw [label] <;> rfl
  · rw [if_neg clearing]
    by_cases entering : f.label = 6
    · rw [if_pos entering, entering]
      rfl
    · rw [if_neg entering]
      rcases hostOpOf_keeps_outputOnly clearing entering with handler | handler <;> rw [handler]

/-- Settles O21: the instruction of the frame, and what DISPATCH leaves of output-only mode. -/
theorem dispatchIsByLabelAlone : Obligations.DispatchIsByLabelAlone := by
  intro f s
  exact ⟨instrOfFrame Config.params f, dispatch Config.params f s, exec_dispatch f s, exec_instrOfFrame f s,
    instrOfFrame_default f, dispatch_outputOnly f s⟩

end Sys2Proof.Machine
end

section
/-! The reactions of 43_reactions.md: what each scheduled action does when its guard holds and when it does not, and the
quiescent block of 41_scheduler.md section 4, in which no guard holds. -/

namespace Sys2Proof.Machine

/-! ### HOST_RX -/

/-- R150: a frame that the decoder call answers is dispatched at the state the call leaves. -/
theorem hostRx_of_frame {P : Params} {s : State} {f : Frame}
    (delivered : (decodeBytes P s.codec s.hostRx).event = .frame f) :
    hostRx P s = dispatch P f (takeDecoded (decodeBytes P s.codec s.hostRx) s) := by
  simp only [hostRx, decodeCall, delivered]

/-- R150: without a frame HOST_RX is its decoder call. -/
theorem hostRx_of_no_frame {P : Params} {s : State}
    (no_frame : ∀ f, (decodeBytes P s.codec s.hostRx).event ≠ .frame f) : hostRx P s = (decodeCall P s).2 := by
  simp only [hostRx, decodeCall]
  cases event : (decodeBytes P s.codec s.hostRx).event with
  | none => rfl
  | frame f => exact absurd event (no_frame f)
  | discard label len => rfl

/-- R97, R150: with no byte to read HOST_RX leaves the state as it is. -/
theorem hostRx_of_empty (P : Params) {s : State} (no_bytes : s.hostRx = []) : hostRx P s = s := by
  have nothing_read : decodeBytes P s.codec s.hostRx = { codec := s.codec, rest := s.hostRx, event := .none } := by
    rw [no_bytes, decodeBytes_nil]
  simp only [hostRx, decodeCall, nothing_read, takeDecoded]

/-- Settles O34, by the three events that end a decoder call. -/
theorem hostRxRunsTheDecodedFrame : Obligations.HostRxRunsTheDecodedFrame := by
  intro s
  refine ⟨hostRx Config.params s, exec_hostRx s, ?_⟩
  cases event : (decodeBytes Config.params s.codec s.hostRx).event with
  | none =>
    have no_frame : ∀ f, (decodeBytes Config.params s.codec s.hostRx).event ≠ .frame f := by simp [event]
    show exec .decode s = _
    rw [exec_decode, hostRx_of_no_frame no_frame]
  | frame f =>
    show exec (.dispatch f) (takeDecoded (decodeBytes Config.params s.codec s.hostRx) s) = _
    rw [exec_dispatch, hostRx_of_frame event]
  | discard label len =>
    have no_frame : ∀ f, (decodeBytes Config.params s.codec s.hostRx).event ≠ .frame f := by simp [event]
    show exec .decode s = _
    rw [exec_decode, hostRx_of_no_frame no_frame]

/-! ### DMX_OUT_PUMP -/

/-- R151: one transmission of the stored slots, and the phase advanced by one period. -/
theorem pumpSend_eq (s : State) :
    pumpSend s
      = { s with
          busLog := s.busLog ++ [.send (s.dmxBuf.take s.outputLength)]
          outputElapsedUs := s.outputElapsedUs + s.outputPeriodUs } := rfl

/-- R151 with the comparison of R118 written out. -/
theorem dmxOutPump_eq (s : State) :
    dmxOutPump s
      = if s.outputOnly = true ∧ (s.outputElapsedUs + s.outputPeriodUs).toNat ≤ s.clock.toNat then pumpSend s
        else s := by
  have due_iff : (s.outputOnly && pumpDue s.clock s.outputElapsedUs s.outputPeriodUs) = true
      ↔ s.outputOnly = true ∧ (s.outputElapsedUs + s.outputPeriodUs).toNat ≤ s.clock.toNat := by
    rw [Bool.and_eq_true, pumpDue, decide_eq_true_iff]
  exact if_congr due_iff rfl rfl

/-- Settles O36. -/
theorem pumpSendsWhenDue : Obligations.PumpSendsWhenDue := by
  intro s
  rw [exec_dmxOutPump, dmxOutPump_eq, pumpSend_eq]

/-! ### RDM_TIMEOUT_CHECK -/

/-- R158: nothing times out while the deadline is disarmed. -/
theorem rdmTimeoutCheck_disarmed (P : Params) {s : State} (disarmed : s.deadline = none) : rdmTimeoutCheck P s = s := by
  simp [rdmTimeoutCheck, disarmed, timedOut]

/-- R158: the strict comparison with an armed deadline. -/
theorem rdmTimeoutCheck_armed (P : Params) {s : State} {t : U64} (armed : s.deadline = some t) :
    rdmTimeoutCheck P s = if P.rdmTimeoutUs.toNat < (s.nowE - t).toNat then timeoutPath P s else s := by
  simp only [rdmTimeoutCheck, armed, timedOut, decide_eq_true_eq]

/-- Settles O39, by whether the deadline is armed. -/
theorem timeoutCheckIsStrict : Obligations.TimeoutCheckIsStrict := by
  intro s
  refine ⟨timeoutPath Config.params s, exec_timeoutPath s, rfl, ?_⟩
  rw [exec_rdmTimeoutCheck]
  cases deadline : s.deadline with
  | none => rw [rdmTimeoutCheck_disarmed _ deadline]
  | some t =>
    have one_second : Config.params.rdmTimeoutUs.toNat = 1000000 := rfl
    rw [rdmTimeoutCheck_armed _ deadline, one_second]

/-! ### The quiescent block -/

/-- R122: in a quiescent state no action does anything: HOST_RX has no byte, HEARTBEAT has no effect (R160), and the
guard of every other action is false. -/
theorem runAction_of_quiescent (P : Params) {s : State} (quiet : Quiescent s) (a : Action) : runAction P s a = s := by
  obtain ⟨no_bytes, no_packet, not_fresh, not_output, disarmed, -⟩ := quiet
  cases a with
  | hostRx => exact hostRx_of_empty P no_bytes
  | rdmInDispatch => exact guardFalse_noop (by simp [guardFalse, no_packet])
  | dmxOutPump => exact guardFalse_noop (by simp [guardFalse, not_output])
  | dmxInForward => exact guardFalse_noop (by simp [guardFalse, dmxInForwardGuard, not_fresh])
  | changeOfState => exact guardFalse_noop (by simp [guardFalse, changeOfStateGuard, not_fresh])
  | rdmTimeoutCheck => exact rdmTimeoutCheck_disarmed P disarmed
  | heartbeat => rfl

/-- R115: the clock an event action samples makes no difference in a quiescent state. -/
theorem runEventAction_of_quiescent (P : Params) {s : State} (quiet : Quiescent s) (a : Action) :
    runEventAction P s a = s := by
  have quiet_at_sample : Quiescent { s with clock := s.nowE } := quiet
  rw [runEventAction, runAction_of_quiescent P quiet_at_sample]

theorem sameButScheduler_trans {s t u : State} (st : sameButScheduler s t) (tu : sameButScheduler t u) :
    sameButScheduler s u := by
  have overwritten : { u with pc := s.pc, nowE := s.nowE, lastFire := s.lastFire, schedStarted := s.schedStarted }
      = { t with pc := s.pc, nowE := s.nowE, lastFire := s.lastFire, schedStarted := s.schedStarted } :=
    congrArg (fun v : State =>
      { v with pc := s.pc, nowE := s.nowE, lastFire := s.lastFire, schedStarted := s.schedStarted }) tu
  exact overwritten.trans st

theorem sameButScheduler_schedInit (P : Params) (s : State) : sameButScheduler s (schedInit P s) := rfl

theorem sameButScheduler_setPc (p : Pc) (s : State) : sameButScheduler s (setPc p s) := rfl

theorem sameButScheduler_sampleEventClock (s : State) : sameButScheduler s (sampleEventClock s) := rfl

theorem sameButScheduler_enterEvent (j : Nat) (s : State) : sameButScheduler s (enterEvent j s) := by
  unfold enterEvent
  split
  · exact sameButScheduler_sampleEventClock s
  · rfl

/-- No part of quiescence is a field that the Scheduler writes for itself. -/
theorem quiescent_of_sameButScheduler {s t : State} (same : sameButScheduler s t) (quiet : Quiescent s) :
    Quiescent t :=
  (congrArg Quiescent same).mpr quiet

/-- R116: a check in a quiescent state writes at most its counter. -/
theorem sameButScheduler_checkEntry (P : Params) (j : Nat) (period : U64) (a : Action) {s : State}
    (quiet : Quiescent s) : sameButScheduler s (checkEntry P j period a s) := by
  rcases checkEntry_cases P j period a s with ⟨-, kept⟩ | ⟨-, fired⟩
  · rw [kept]
    rfl
  · rw [fired, runEventAction_of_quiescent P quiet]
    rfl

/-- R113, R122: a step from a quiescent state, for every value of the parameters and all tables. -/
theorem sameButScheduler_schedIteration {P : Params} {s t : State} (quiet : Quiescent s)
    (stepped : schedIteration P s = .next t) : sameButScheduler s t := by
  rcases schedIteration_cases stepped with
    ⟨-, rfl⟩ | ⟨i, a, -, -, rfl⟩ | ⟨-, -, rfl⟩ | ⟨j, period, a, -, -, rfl⟩ | ⟨-, -, rfl⟩
  · exact sameButScheduler_schedInit P s
  · rw [runAction_of_quiescent P quiet]
    exact sameButScheduler_setPc _ s
  · exact sameButScheduler_setPc _ s
  · have entered := sameButScheduler_enterEvent j s
    have checked := sameButScheduler_checkEntry P j period a (quiescent_of_sameButScheduler entered quiet)
    exact sameButScheduler_trans (sameButScheduler_trans entered checked) (sameButScheduler_setPc _ _)
  · exact sameButScheduler_trans (sameButScheduler_sampleEventClock s) (sameButScheduler_setPc _ _)

/-- Settles O59: a step changes the Scheduler's own fields alone, and quiescence is about none of them. -/
theorem quiescentBlockStaysSo : Obligations.QuiescentBlockStaysSo := by
  intro s t quiet stepped
  rw [step, exec_schedIteration] at stepped
  have same := sameButScheduler_schedIteration quiet stepped
  exact ⟨same, quiescent_of_sameButScheduler same quiet⟩

end Sys2Proof.Machine
end

section
/-! The RDM engine of 44_rdm_engine.md: what it does with an addressed packet of a class that no other row selects. -/

namespace Sys2Proof.Machine

/-- R181: `OTHER_CLASS` is `FORWARD` with `k = message_length + 2`, after which no deadline is armed. -/
theorem otherClass_eq (P : Params) (v : RdmPacket) (s : State) :
    otherClass P v s =
      { receivedDmxPacketRdm P v.bytes (v.operands.messageLength.toNat + 2) s with deadline := none } := rfl

/-- Settles O31: the row RECEIVED_DMX_PACKET_RDM answers the forwarded state, and `OTHER_CLASS` is that state disarmed. -/
theorem otherClassesForwardAndDisarm : Obligations.OtherClassesForwardAndDisarm := by
  intro commandClass paramId o s
  refine ⟨_, exec_receivedDmxPacketRdm _ _ s, ?_⟩
  rw [exec_rdmOtherClass, otherClass_eq, RdmOperands.packet]

end Sys2Proof.Machine
end

section
/-! The encodings of 30_encoding.md: the words of every instruction decode to it, and every packet that decodes is the
words of its instruction. -/

namespace Sys2Proof.Machine

/-- R66: distinct labels select the nine handlers one by one. -/
theorem hostOpOf_hostLabels {l : Labels} (distinct : l.hostLabels.Nodup) :
    l.hostLabels.map (hostOpOf l)
      = [.getWidgetParams, .setWidgetParams, .outputOnlySendDmxPacket, .sendRdmPacket, .receiveDmxOnChange,
        .getWidgetSn, .sendRdmDiscoveryRequest, .manufacturerLabel, .getWidgetName] := by
  simp only [Labels.hostLabels, List.nodup_cons, List.mem_cons, List.not_mem_nil, or_false, not_or] at distinct
  simp [Labels.hostLabels, hostOpOf, distinct, eq_comm]

/-- R66: a label that is none of the nine selects UNKNOWN. -/
theorem hostOpOf_of_not_mem {l : Labels} {label : Byte} (other : label ∉ l.hostLabels) :
    hostOpOf l label = .unknown := by
  simp only [Labels.hostLabels, List.mem_cons, List.not_mem_nil, or_false, not_or] at other
  simp [hostOpOf, other]

/-- R73: distinct parameter ids select the three discovery actions one by one. -/
theorem busOpOf_discovery {r : RdmConstants} (distinct : r.discoveryPids.Nodup) :
    r.discoveryPids.map (busOpOf r r.discoveryCommand) = [.discUniqueBranch, .discMute, .discUnMute] := by
  simp only [RdmConstants.discoveryPids, List.nodup_cons, List.mem_cons, List.not_mem_nil, or_false, not_or] at distinct
  simp [RdmConstants.discoveryPids, busOpOf, distinct, eq_comm]

/-- R73: any other parameter id of the discovery class selects DISC_OTHER. -/
theorem busOpOf_discOther {r : RdmConstants} {pid : U16} (other : pid ∉ r.discoveryPids) :
    busOpOf r r.discoveryCommand pid = .discOther := by
  simp only [RdmConstants.discoveryPids, List.mem_cons, List.not_mem_nil, or_false, not_or] at other
  simp [busOpOf, other]

/-- R73: distinct classes select the three actions that do not look at the parameter id. -/
theorem busOpOf_classes {r : RdmConstants} (distinct : r.classes.Nodup) (pid : U16) :
    busOpOf r r.getCommand pid = .getCommand ∧ busOpOf r r.setCommand pid = .setCommand
      ∧ busOpOf r r.discoveryCommandResponse pid = .discoveryCommandResponse := by
  simp only [RdmConstants.classes, List.nodup_cons, List.mem_cons, List.not_mem_nil, or_false, not_or] at distinct
  obtain ⟨⟨dg, ds, dr⟩, ⟨gs, gr⟩, sr, -⟩ := distinct
  simp [busOpOf, Ne.symm dg, Ne.symm ds, Ne.symm dr, Ne.symm gs, Ne.symm gr, Ne.symm sr]

/-- R73, R181: a class that is none of the four selects the catch-all action. -/
theorem busOpOf_otherClass {r : RdmConstants} {commandClass : Byte} (other : commandClass ∉ r.classes) (pid : U16) :
    busOpOf r commandClass pid = .otherClass := by
  simp only [RdmConstants.classes, List.mem_cons, List.not_mem_nil, or_false, not_or] at other
  simp [busOpOf, other]

/-- R102: a frame on the host link decodes to the instruction of its label and payload. -/
theorem decode_host_encodeFrame {P : Params} {label : Byte} {payload : List Byte} (bound : P.cap ≤ 65535)
    (fits : payloadWf P payload = true) :
    decode P (.host (encodeFrame P label payload)) = .ok ((hostOpOf P.labels label).instr ⟨label, payload⟩) := by
  have uncut : payload.take P.cap = payload := List.take_of_length_le (of_decide_eq_true fits)
  obtain ⟨-, c', hrun, -⟩ := encodeThenDecodeReturnsTheFrame P (Codec.idle P) label payload [] bound rfl
    (List.length_replicate ..)
  rw [List.append_nil, uncut] at hrun
  simp only [decode, decodeHost, hrun, Except.map, instrOfFrame]

/-- R71: a packet is raw exactly when its start code is 0xFE. -/
theorem isRawResponse_bytes (v : RdmPacket) : isRawResponse v.bytes = !v.operands.wf := by
  simp only [isRawResponse, RdmPacket.bytes, RdmOperands.wf, List.cons_append, List.head?_cons, Option.some_beq_some, bne,
    Bool.not_not]

/-- R73: the bytes of a packet that is not raw decode to the instruction of its class and parameter id. -/
theorem decode_bus_packet {P : Params} {o : RdmOperands} (standard : o.wf = true) (commandClass : Byte) (pid : U16) :
    decode P (.bus (o.packet commandClass pid).bytes)
      = .ok ((busOpOf P.rdm commandClass pid).instr (o.packet commandClass pid)) := by
  have not_raw : isRawResponse (o.packet commandClass pid).bytes = false := by
    rw [isRawResponse_bytes, show (o.packet commandClass pid).operands.wf = true from standard]
    rfl
  simp only [decode, decodePacket, not_raw, viewPacket_bytes, Bool.false_eq_true, if_false, instrOfPacket]
  rfl

/-- R67, R71: a packet that begins 0xFE decodes to RAW_DISCOVERY_RESPONSE. -/
theorem decode_bus_raw (P : Params) (rest : List Byte) :
    decode P (.bus (rawFirstByte :: rest)) = .ok (.rawDiscoveryResponse rest) := rfl

/-- Settles O8, by the constructors: a host row is its frame's round trip with the handler its label selects, a bus row
its packet's view with the action its class and parameter id select; every other row has no words. -/
theorem decodeOfEncodeIsTheInstruction : Obligations.DecodeOfEncodeIsTheInstruction := by
  rintro P i w ⟨-, bound, labels, pids, classes⟩ hwf henc
  obtain ⟨o3, o4, o6, o7, o8, o10, o11, o77, o78, -⟩ := by
    simpa only [Labels.hostLabels, List.map_cons, List.cons.injEq] using hostOpOf_hostLabels labels
  obtain ⟨dub, mute, unMute, -⟩ := by
    simpa only [RdmConstants.discoveryPids, List.map_cons, List.cons.injEq] using busOpOf_discovery pids
  have host : ∀ {label payload} (op : HostOp), hostOpOf P.labels label = op → payloadWf P payload = true →
      decode P (.host (encodeFrame P label payload)) = .ok (op.instr ⟨label, payload⟩) := by
    rintro label payload op rfl fits
    exact decode_host_encodeFrame bound fits
  have bus : ∀ {cc pid} {o : RdmOperands} (op : BusOp), busOpOf P.rdm cc pid = op → o.wf = true →
      decode P (.bus (o.packet cc pid).bytes) = .ok (op.instr (o.packet cc pid)) := by
    rintro cc pid o op rfl standard
    exact decode_bus_packet standard cc pid
  cases i <;> cases henc
  case getWidgetParams => exact host _ o3 hwf
  case setWidgetParams => exact host _ o4 hwf
  case outputOnlySendDmxPacket => exact host _ o6 hwf
  case sendRdmPacket => exact host _ o7 hwf
  case receiveDmxOnChange => exact host _ o8 hwf
  case getWidgetSn => exact host _ o10 hwf
  case sendRdmDiscoveryRequest => exact host _ o11 hwf
  case manufacturerLabel => exact host _ o77 hwf
  case getWidgetName => exact host _ o78 hwf
  case unknown label payload =>
    obtain ⟨fits, other⟩ : payloadWf P payload = true ∧ label ∉ P.labels.hostLabels := by simpa [Instr.wf] using hwf
    exact host _ (hostOpOf_of_not_mem other) fits
  case discUniqueBranch => exact bus _ dub hwf
  case discMute => exact bus _ mute hwf
  case discUnMute => exact bus _ unMute hwf
  case discOther pid o =>
    obtain ⟨standard, other⟩ : o.wf = true ∧ pid ∉ P.rdm.discoveryPids := by simpa [Instr.wf] using hwf
    exact bus _ (busOpOf_discOther other) standard
  case getCommand pid o => exact bus _ (busOpOf_classes classes pid).1 hwf
  case setCommand pid o => exact bus _ (busOpOf_classes classes pid).2.1 hwf
  case discoveryCommandResponse pid o => exact bus _ (busOpOf_classes classes pid).2.2 hwf
  case rdmOtherClass cc pid o =>
    obtain ⟨standard, other⟩ : o.wf = true ∧ cc ∉ P.rdm.classes := by simpa [Instr.wf] using hwf
    exact bus _ (busOpOf_otherClass other pid) standard
  case rawDiscoveryResponse rest => exact decode_bus_raw P rest

/-- R73, R82: the row a packet selects is well formed unless the packet is raw, and its words are the packet. -/
theorem instrOfPacket_wf_encode (P : Params) (v : RdmPacket) :
    (instrOfPacket P v).wf P = v.operands.wf ∧ encode P (instrOfPacket P v) = some (.bus v.bytes) := by
  rcases v with ⟨cc, pid, o⟩
  simp only [instrOfPacket, busOpOf]
  split
  · next discovery =>
    subst discovery
    split
    · next selected => exact ⟨rfl, by subst selected; rfl⟩
    split
    · next selected => exact ⟨rfl, by subst selected; rfl⟩
    split
    · next selected => exact ⟨rfl, by subst selected; rfl⟩
    · next not_dub not_unMute not_mute =>
      exact ⟨by simp [BusOp.instr, Instr.wf, RdmConstants.discoveryPids, *], rfl⟩
  split
  · next selected => exact ⟨rfl, by subst selected; rfl⟩
  split
  · next selected => exact ⟨rfl, by subst selected; rfl⟩
  split
  · next selected => exact ⟨rfl, by subst selected; rfl⟩
  · next not_discovery not_get not_set not_response =>
    exact ⟨by simp [BusOp.instr, Instr.wf, RdmConstants.classes, *], rfl⟩

/-- R71: a raw packet is its first byte and the rest. -/
theorem eq_of_isRawResponse {pkt : List Byte} (raw : isRawResponse pkt = true) : pkt = rawFirstByte :: pkt.tail := by
  cases pkt with
  | nil => cases raw
  | cons b rest =>
    have first : b = rawFirstByte := by simpa [isRawResponse] using raw
    rw [first, List.tail_cons]

/-- R73: the two ways a packet decodes. -/
theorem decodePacket_ok {P : Params} {pkt : List Byte} {i : Instr} (decoded : decodePacket P pkt = .ok i) :
    (isRawResponse pkt = true ∧ i = .rawDiscoveryResponse pkt.tail)
    ∨ ∃ v, isRawResponse pkt = false ∧ viewPacket pkt = some v ∧ i = instrOfPacket P v := by
  unfold decodePacket at decoded
  split at decoded
  · next raw => cases decoded; exact .inl ⟨raw, rfl⟩
  · next not_raw =>
    split at decoded
    · cases decoded
    · next v view => cases decoded; exact .inr ⟨v, Bool.eq_false_iff.2 not_raw, view, rfl⟩

/-- R73, R166: the one way a packet is rejected. -/
theorem decodePacket_error {P : Params} {pkt : List Byte} {e : DecodeReject} (rejected : decodePacket P pkt = .error e) :
    isRawResponse pkt = false ∧ viewPacket pkt = none ∧ e = .shortRdmPacket := by
  unfold decodePacket at rejected
  split at rejected
  · cases rejected
  · next not_raw =>
    split at rejected
    · next no_view => cases rejected; exact ⟨Bool.eq_false_iff.2 not_raw, no_view, rfl⟩
    · cases rejected

/-- R166: only a packet of fewer than 24 bytes has no view. -/
theorem length_of_viewPacket_none {pkt : List Byte} (no_view : viewPacket pkt = none) : pkt.length < 24 := by
  unfold viewPacket at no_view
  split at no_view
  · next short => exact short
  · cases no_view

/-- R71: the raw test on the first byte. -/
theorem isRawResponse_iff (pkt : List Byte) : isRawResponse pkt = true ↔ pkt.head? = some 0xFE := by
  simp [isRawResponse, rawFirstByte]

/-- Settles O9, by the ways a packet decodes or is rejected. -/
theorem everyPacketByteIsKept : Obligations.EveryPacketByteIsKept := by
  intro P pkt
  constructor
  · intro i decoded
    rcases decodePacket_ok decoded with ⟨raw, rfl⟩ | ⟨v, not_raw, view, rfl⟩
    · refine ⟨rfl, ?_⟩
      rw [encode, ← eq_of_isRawResponse raw]
    · obtain ⟨bytes, -⟩ := viewPacket_some view
      obtain ⟨wf, words⟩ := instrOfPacket_wf_encode P v
      rw [← bytes, isRawResponse_bytes, Bool.not_eq_false'] at not_raw
      exact ⟨wf.trans not_raw, by rw [words, bytes]⟩
  · intro e rejected
    obtain ⟨not_raw, no_view, rfl⟩ := decodePacket_error rejected
    exact ⟨rfl, length_of_viewPacket_none no_view, fun head => Bool.false_ne_true
      (not_raw.symm.trans ((isRawResponse_iff pkt).2 head))⟩

/-- Settles O10: each word is laid out, framed or viewed and selected by evaluation; the operands of the two packets are
what the view reads from the zero bytes. -/
theorem tableWordsDecode : Obligations.TableWordsDecode :=
  ⟨rfl, rfl, rfl, rfl, ⟨_, rfl⟩, ⟨_, rfl⟩⟩

end Sys2Proof.Machine
end

section
/-! The frame codec of 40_frame_codec.md section 2: which bytes a decoder call consumes for each event, and the two rows
DECODE and ENCODE. -/

namespace Sys2Proof.Machine

/-- R97: a decoder call that answers no event has fed every byte to `dec_step`, and goes on with any later bytes. -/
theorem decodeBytes_append (P : Params) (late : List Byte) (early : List Byte) (c : Codec)
    (ran_out : (decodeBytes P c early).event = .none) :
    (decodeBytes P c early).rest = []
      ∧ decodeBytes P c (early ++ late) = decodeBytes P (decodeBytes P c early).codec late := by
  induction early generalizing c with
  | nil => exact ⟨rfl, rfl⟩
  | cons b bs ih =>
    rcases e : decStep P c b with ⟨c', _ | f | ⟨label, len⟩⟩
    · rw [decodeBytes_cons_none bs e] at ran_out
      rw [List.cons_append, decodeBytes_cons_none bs e, decodeBytes_cons_none (bs ++ late) e]
      exact ih c' ran_out
    · rw [decodeBytes_cons_frame bs e] at ran_out
      cases ran_out
    · rw [decodeBytes_cons_discard bs e] at ran_out
      cases ran_out

/-- Settles O4. -/
theorem decoderResumesWhereInputRanOut : Obligations.DecoderResumesWhereInputRanOut :=
  fun P c early late ran_out => decodeBytes_append P late early c ran_out

/-- R91: in HUNT, bytes that are no start marker leave the framer as it is. -/
theorem decodeBytes_inter_frame (P : Params) {c : Codec} (hs : c.decState = .hunt) (before bs : List Byte)
    (no_start : ∀ b ∈ before, b ≠ P.startByte) : decodeBytes P c (before ++ bs) = decodeBytes P c bs := by
  induction before with
  | nil => rfl
  | cons b before ih =>
    obtain ⟨hb, hbefore⟩ := List.forall_mem_cons.1 no_start
    have e := decStep_hunt P c b hs
    rw [if_neg hb] at e
    rw [List.cons_append, decodeBytes_cons_none _ e, ih hbefore]

/-- R92 to R94: a header that is cut off answers no event. -/
theorem decodeBytes_short_header (P : Params) {c : Codec} (hs : c.decState = .hunt) {bs : List Byte}
    (short : bs.length < 3) : (decodeBytes P c (P.startByte :: bs)).event = .none := by
  have start := decStep_hunt P c P.startByte hs
  rw [if_pos rfl] at start
  rw [decodeBytes_cons_none _ start]
  match bs, short with
  | [], _ => rfl
  | [_], _ => rfl
  | [_, _], _ => rfl

/-- R91 to R94: a call from HUNT that answers an event has read a whole header, after bytes that are no start marker. -/
theorem decodeBytes_hunt_event {P : Params} {c : Codec} {bytes : List Byte} (hs : c.decState = .hunt)
    (answered : (decodeBytes P c bytes).event ≠ .none) :
    ∃ before label lo hi bs, bytes = before ++ P.startByte :: label :: lo :: hi :: bs
      ∧ (∀ b ∈ before, b ≠ P.startByte)
      ∧ decodeBytes P c bytes = decodeBytes P (codecAfterHeader P c label (word16 lo hi)) bs := by
  have no_start : ∀ b ∈ bytes.takeWhile (· ≠ P.startByte), b ≠ P.startByte := by
    intro b hb
    simpa using List.mem_takeWhile_imp hb
  have split_at_start := List.takeWhile_append_dropWhile (p := (· ≠ P.startByte)) (l := bytes)
  rw [← split_at_start, decodeBytes_inter_frame P hs _ _ no_start] at answered
  match hrest : bytes.dropWhile (· ≠ P.startByte) with
  | [] => exact absurd (by rw [hrest, decodeBytes_nil]) answered
  | b :: bs =>
    obtain rfl : b = P.startByte := by
      have head := List.head?_dropWhile_not (· ≠ P.startByte) bytes
      rw [hrest] at head
      simpa using head
    rw [hrest] at answered split_at_start
    match bs with
    | label :: lo :: hi :: bs =>
      refine ⟨_, label, lo, hi, bs, split_at_start.symm, no_start, ?_⟩
      calc decodeBytes P c bytes
          = decodeBytes P c (bytes.takeWhile (· ≠ P.startByte) ++ P.startByte :: label :: lo :: hi :: bs) := by
            rw [split_at_start]
        _ = decodeBytes P c (P.startByte :: label :: lo :: hi :: bs) := decodeBytes_inter_frame P hs _ _ no_start
        _ = decodeBytes P (codecAfterHeader P c label (word16 lo hi)) bs := decodeBytes_header P c label lo hi bs hs
    | [] => exact absurd (decodeBytes_short_header P hs (by simp)) answered
    | [_] => exact absurd (decodeBytes_short_header P hs (by simp)) answered
    | [_, _] => exact absurd (decodeBytes_short_header P hs (by simp)) answered

/-- R95: a call from the end of a header that answers an event has stored every payload byte that is to be stored, and
stands at END_SEARCH with nothing else changed. -/
theorem decodeBytes_payload_event {P : Params} {c : Codec} {label : Byte} {len : U16} {bs : List Byte}
    (hb : c.rxBuf.length = P.cap) (answered : (decodeBytes P (codecAfterHeader P c label len) bs).event ≠ .none) :
    ∃ q rest c', bs = q ++ rest ∧ q.length = min len.toNat P.cap
      ∧ decodeBytes P (codecAfterHeader P c label len) bs = decodeBytes P c' rest
      ∧ c'.decState = .endSearch ∧ c'.rxLabel = label ∧ c'.rxLen = len ∧ c'.rxCnt = q.length
      ∧ c'.rxBuf.take (c'.stored P) = q := by
  by_cases none_stored : min len.toNat P.cap = 0
  · refine ⟨[], bs, codecAfterHeader P c label len, rfl, none_stored.symm, rfl, ?_, rfl, rfl, rfl, ?_⟩
    · simp [codecAfterHeader, none_stored]
    · simp [codecAfterHeader, Codec.stored, none_stored]
  have in_payload : (codecAfterHeader P c label len).decState = .payload := if_pos (Nat.pos_of_ne_zero none_stored)
  by_cases short : bs.length < min len.toNat P.cap
  · exact absurd (decodeBytes_payload_short P bs _ in_payload short) answered
  have hq : (bs.take (min len.toNat P.cap)).length = min len.toNat P.cap := by
    rw [List.length_take]
    omega
  obtain ⟨c', hrun, hstate, hlen, hlabel, hcnt, hbuf⟩ :=
    decodeBytes_payload P (bs.drop (min len.toNat P.cap)) (bs.take (min len.toNat P.cap)) _ in_payload hq (by omega) hb
  rw [List.take_append_drop] at hrun
  refine ⟨_, _, c', (List.take_append_drop _ _).symm, hq, hrun, hstate, hlabel, hlen, ?_, ?_⟩
  · rw [hcnt, hq]
    rfl
  · rw [hbuf, Codec.stored, hlen, List.append_assoc]
    exact List.take_left' hq

/-- R96: a call from END_SEARCH that answers an event has read bytes that are no end marker and then either the end
marker, with RX_CNT not past CAP, or the one byte that takes RX_CNT past it. -/
theorem decodeBytes_endSearch_event {P : Params} {c : Codec} {bs : List Byte} (hs : c.decState = .endSearch)
    (hcnt : c.rxCnt ≤ P.cap) (answered : (decodeBytes P c bs).event ≠ .none) :
    ∃ stray, (∀ b ∈ stray, b ≠ P.endByte) ∧ (decodeBytes P c bs).codec.decState = .hunt
      ∧ ((bs = stray ++ P.endByte :: (decodeBytes P c bs).rest ∧ c.rxCnt + stray.length ≤ P.cap
          ∧ (decodeBytes P c bs).event = .frame ⟨c.rxLabel, c.rxBuf.take (c.stored P)⟩)
        ∨ (bs = stray ++ (decodeBytes P c bs).rest ∧ c.rxCnt + stray.length = P.cap + 1
          ∧ (decodeBytes P c bs).event = .discard c.rxLabel c.rxLen)) := by
  induction bs generalizing c with
  | nil => exact absurd rfl answered
  | cons b bs ih =>
    have e := decStep_endSearch P c b hs
    by_cases is_end : b = P.endByte
    · rw [if_pos is_end] at e
      rw [decodeBytes_cons_frame bs e]
      exact ⟨[], by simp, rfl, .inl ⟨by rw [is_end]; rfl, hcnt, rfl⟩⟩
    rw [if_neg is_end] at e
    by_cases at_bound : P.cap ≤ c.rxCnt
    · rw [if_pos at_bound] at e
      rw [decodeBytes_cons_discard bs e]
      refine ⟨[b], by simpa using is_end, rfl, .inr ⟨rfl, ?_, rfl⟩⟩
      rw [List.length_singleton]
      omega
    · rw [if_neg at_bound] at e
      rw [decodeBytes_cons_none bs e] at answered ⊢
      obtain ⟨stray, no_end, hunt, ended⟩ :=
        ih (c := { c with rxCnt := c.rxCnt + 1 }) hs (Nat.lt_of_not_le at_bound) answered
      refine ⟨b :: stray, List.forall_mem_cons.2 ⟨is_end, no_end⟩, hunt, ?_⟩
      rcases ended with ⟨bytes, bound, event⟩ | ⟨bytes, bound, event⟩
      · refine .inl ⟨congrArg (b :: ·) bytes, ?_, event⟩
        rw [List.length_cons]
        dsimp only at bound
        omega
      · refine .inr ⟨congrArg (b :: ·) bytes, ?_, event⟩
        rw [List.length_cons]
        dsimp only at bound
        omega

/-- R91 to R98: everything a call from HUNT that answers an event has consumed: bytes that are no start marker, a header,
the payload `q` that is stored, and bytes that are no end marker, up to the end marker of a delivered frame or the bound of
a discarded one. -/
theorem decodeBytes_event {P : Params} {c : Codec} {bytes : List Byte} (hs : c.decState = .hunt)
    (hb : c.rxBuf.length = P.cap) (answered : (decodeBytes P c bytes).event ≠ .none) :
    ∃ before label lo hi q stray, (∀ b ∈ before, b ≠ P.startByte) ∧ (∀ b ∈ stray, b ≠ P.endByte)
      ∧ q.length = min (word16 lo hi).toNat P.cap ∧ (decodeBytes P c bytes).codec.decState = .hunt
      ∧ ((bytes = before ++ P.startByte :: label :: lo :: hi :: (q ++ (stray ++ P.endByte :: (decodeBytes P c bytes).rest))
          ∧ q.length + stray.length ≤ P.cap ∧ (decodeBytes P c bytes).event = .frame ⟨label, q⟩)
        ∨ (bytes = before ++ P.startByte :: label :: lo :: hi :: (q ++ (stray ++ (decodeBytes P c bytes).rest))
          ∧ q.length + stray.length = P.cap + 1
          ∧ (decodeBytes P c bytes).event = .discard label (word16 lo hi))) := by
  obtain ⟨before, label, lo, hi, bs, hbytes, no_start, hheader⟩ := decodeBytes_hunt_event hs answered
  rw [hheader] at answered ⊢
  obtain ⟨q, tail, c', hbs, hq, hpayload, hstate, hlabel, hlen, hcnt, hstored⟩ := decodeBytes_payload_event hb answered
  rw [hpayload] at answered ⊢
  obtain ⟨stray, no_end, hunt, ended⟩ := decodeBytes_endSearch_event hstate (by omega) answered
  rw [hcnt, hlabel, hlen, hstored] at ended
  refine ⟨before, label, lo, hi, q, stray, no_start, no_end, hq, hunt, ?_⟩
  rcases ended with ⟨htail, bound, event⟩ | ⟨htail, bound, event⟩
  · exact .inl ⟨by rw [← htail, ← hbs, hbytes], bound, event⟩
  · exact .inr ⟨by rw [← htail, ← hbs, hbytes], bound, event⟩

/-- Settles O2: the delivering case of `decodeBytes_event`. -/
theorem deliveredFrameIsWhole : Obligations.DeliveredFrameIsWhole := by
  intro P c bytes f hs hb delivered
  obtain ⟨before, label, lo, hi, q, stray, no_start, no_end, hq, hunt, ended⟩ :=
    decodeBytes_event hs hb (by rw [delivered]; exact DecEvent.noConfusion)
  rcases ended with ⟨hbytes, bound, event⟩ | ⟨-, -, event⟩
  · cases delivered.symm.trans event
    exact ⟨before, lo, hi, stray, by simpa using hbytes, no_start, no_end, hq, bound, hunt⟩
  · cases delivered.symm.trans event

/-- Settles O3: the discarding case of `decodeBytes_event`; the body is the stored payload and the bytes after it. -/
theorem discardCostsCapPlusFiveBytes : Obligations.DiscardCostsCapPlusFiveBytes := by
  intro P c bytes label len hs hb discarded
  obtain ⟨before, label, lo, hi, q, stray, no_start, no_end, hq, hunt, ended⟩ :=
    decodeBytes_event hs hb (by rw [discarded]; exact DecEvent.noConfusion)
  rcases ended with ⟨-, -, event⟩ | ⟨hbytes, bound, event⟩
  · cases discarded.symm.trans event
  · cases discarded.symm.trans event
    have body_length : (q ++ stray).length = P.cap + 1 := by rw [List.length_append, bound]
    refine ⟨before, lo, hi, q ++ stray, by simpa using hbytes, no_start, rfl, body_length, ?_, hunt⟩
    rwa [← hq, List.drop_left]

/-- R100: the length bytes of a frame. -/
theorem length_bytes (n : Nat) :
    loByte (BitVec.ofNat 16 n) = BitVec.ofNat 8 n ∧ hiByte (BitVec.ofNat 16 n) = BitVec.ofNat 8 (n / 256) := by
  constructor
  · apply BitVec.eq_of_toNat_eq
    simp only [loByte, BitVec.toNat_setWidth, BitVec.toNat_ofNat]
    omega
  · apply BitVec.eq_of_toNat_eq
    simp only [hiByte, BitVec.toNat_setWidth, BitVec.toNat_ushiftRight, BitVec.toNat_ofNat, Nat.shiftRight_eq_div_pow]
    omega

/-- Settles O6: one `emit`, whose bytes are those of R100 with the length in two bytes. -/
theorem encodeAppendsOneFrame : Obligations.EncodeAppendsOneFrame := by
  intro label payload s
  obtain ⟨lo, hi⟩ := length_bytes (min payload.length 600)
  have bytes := encodeFrame_append Config.params label payload []
  rw [params_cap, params_startByte, params_endByte, lo, hi, List.append_nil] at bytes
  rw [exec_encode, emit_eq, bytes]
  simp only [List.append_assoc, List.cons_append, List.nil_append]

/-- Settles O7, by the three events that end a decoder call. -/
theorem decodeWritesOnlyFramerAndInput : Obligations.DecodeWritesOnlyFramerAndInput := by
  intro s
  rw [exec_decode, decodeCall]
  cases (decodeBytes Config.params s.codec s.hostRx).event with
  | none => simp only [List.append_nil]; rfl
  | frame f => simp only [List.append_nil]; rfl
  | discard label len => rfl

end Sys2Proof.Machine
end

section
/-! The RDM engine of 44_rdm_engine.md: the Discovery-Unique-Branch response, what each action writes, and everything one
packet can make the engine do. -/

namespace Sys2Proof.Machine

/-! ### The response bytes -/

/-- R61: the two bytes of a 16-bit number give the number back. -/
theorem hiByte_loByte_toNat (n : U16) : (hiByte n).toNat * 256 + (loByte n).toNat = n.toNat := by
  have bound := n.isLt
  simp only [hiByte, loByte, BitVec.toNat_setWidth, BitVec.toNat_ushiftRight, Nat.shiftRight_eq_div_pow]
  omega

/-- R76: the masks 0xAA and 0x55 hide complementary bits, so a pair holds every bit of its byte. -/
theorem unmask_masked (b : Byte) : unmask (b ||| 0xAA) (b ||| 0x55) = b := by
  apply BitVec.eq_of_getLsbD_eq
  intro i hi
  simp only [unmask, BitVec.getLsbD_or, BitVec.getLsbD_and]
  interval_cases i <;> simp

/-- R77: the sum of six bytes over the base stays below 2^16. -/
theorem dubChecksum_toNat (u : Uid) : (dubChecksum u).toNat = 1530 + (u.bytes.map BitVec.toNat).sum := by
  have b0 := u.m0.isLt
  have b1 := u.m1.isLt
  have b2 := u.d0.isLt
  have b3 := u.d1.isLt
  have b4 := u.d2.isLt
  have b5 := u.d3.isLt
  have base : (6 * 0xFF : U16).toNat = 1530 := rfl
  rw [dubChecksum_eq_sum]
  simp only [BitVec.toNat_add, BitVec.toNat_setWidth, base, Uid.bytes, List.map_cons, List.map_nil, List.sum_cons,
    List.sum_nil]
  omega

/-- Settles O25: each pair of `dubResponse_eq_pairs` unmasks to its byte, and the last two are the halves of the
checksum. -/
theorem dubResponseUnmasksToUidAndSum : Obligations.DubResponseUnmasksToUidAndSum := by
  intro u
  rw [dubResponse_eq_pairs]
  refine ⟨rfl, ?_, ?_⟩
  · intro k hk
    interval_cases k <;> exact unmask_masked _
  · rw [← dubChecksum_toNat, ← hiByte_loByte_toNat (dubChecksum u)]
    congr 2
    · congr 1
      exact unmask_masked _
    · exact unmask_masked _

/-! ### Discovery-Unique-Branch -/

/-- R70, R74: a UID at or after byte 24 of a packet stands in its tail. -/
theorem uidAt_packet_tail (o : RdmOperands) (commandClass : Byte) (pid : U16) (k : Nat) :
    uidAt (o.packet commandClass pid).bytes (24 + k) = uidAt o.tail k := by
  simp only [uidAt, Nat.add_assoc, byteAt_packet_tail]

/-- R170, R171: when the device answers. -/
theorem dubAnswers_iff (P : Params) (o : RdmOperands) (commandClass : Byte) (pid : U16) (s : State) :
    dubAnswers P (o.packet commandClass pid) s = true
      ↔ s.rdmIsMuted = false ∧ 12 ≤ o.tail.length ∧ uidNumber (uidAt o.tail 0) ≤ uidNumber P.myUid
        ∧ uidNumber P.myUid ≤ uidNumber (uidAt o.tail 6) := by
  have lower : lowerBound (o.packet commandClass pid).bytes = uidAt o.tail 0 := uidAt_packet_tail o _ _ 0
  have upper : upperBound (o.packet commandClass pid).bytes = uidAt o.tail 6 := uidAt_packet_tail o _ _ 6
  have holds_bounds : dubRequestLength ≤ (o.packet commandClass pid).bytes.length ↔ 12 ≤ o.tail.length := by
    rw [packet_bytes_length, dubRequestLength]
    omega
  simp only [dubAnswers, inRange, lower, upper, Bool.and_eq_true, beq_iff_eq, decide_eq_true_eq, holds_bounds,
    uidLe_iff, and_assoc]

/-- Settles O26. -/
theorem dubAnswersInRangeUnmuted : Obligations.DubAnswersInRangeUnmuted := by
  intro o s
  rw [exec_discUniqueBranch, discUniqueBranch]
  exact congrArg _ (if_congr (dubAnswers_iff ..) rfl rfl)

/-! ### Mute and un-mute requests -/

/-- R175, R176: an accepted and a malformed request, for every value of the three policies. -/
theorem writeMute_eq (P : Params) (flag : Bool) (v : RdmPacket) (s : State) :
    writeMute P flag v s
      = if v.operands.pdl = 0 then
          { s with
            rdmIsMuted := flag
            busLog := s.busLog ++
              if P.suppressAckOnBroadcast = true ∧ v.operands.destination ≠ P.myUid then []
              else [.send (P.ackEnvelope v.bytes [0x00, 0x00])] }
        else
          { s with
            trace := s.trace ++ [.malformedRdmRequest v.paramId v.operands.pdl]
            busLog := s.busLog ++ if P.nackOnMalformedMute = true then [.send (P.nackResponse v.bytes)] else [] } := by
  have suppressed : ackSuppressed P v = true
      ↔ P.suppressAckOnBroadcast = true ∧ v.operands.destination ≠ P.myUid := by
    simp [ackSuppressed, isUnicast]
  unfold writeMute
  split
  · rw [muteAck]
    simp only [suppressed]
    split
    · simp only [List.append_nil]; rfl
    · rfl
  · rw [malformedMute]
    split
    · rfl
    · simp only [List.append_nil]; rfl

/-- R173, R174 with the default policies (D30, D31, D32). -/
theorem writeMute_default (flag : Bool) (v : RdmPacket) (s : State) :
    writeMute Config.params flag v s
      = if v.operands.pdl = 0 then { s with rdmIsMuted := flag, busLog := s.busLog ++ [.send [0x00, 0x00]] }
        else { s with trace := s.trace ++ [.malformedRdmRequest v.paramId v.operands.pdl] } := by
  simp [writeMute_eq]

/-- Settles O27. -/
theorem muteRequestsWriteTheFlagAndAcknowledge : Obligations.MuteRequestsWriteTheFlagAndAcknowledge := by
  intro o s
  constructor
  · rw [exec_discMute, discMute, writeMute_default]
    rfl
  · rw [exec_discUnMute, discUnMute, writeMute_default]
    rfl

/-- Settles O28. -/
theorem mutePoliciesChangeOnlyTheReply : Obligations.MutePoliciesChangeOnlyTheReply := by
  intro P v request s muted
  refine ⟨rfl, rfl, ?_⟩
  cases muted with
  | false => exact writeMute_eq P false v s
  | true => exact writeMute_eq P true v s

/-! ### Local parameters -/

/-- R178: the hook's answer, if any, is sent. -/
theorem localParam_eq (P : Params) (pkt : List Byte) (s : State) :
    localParam P pkt s = { s with busLog := s.busLog ++ ((P.paramAccess pkt).map BusEvent.send).toList } := by
  unfold localParam
  cases P.paramAccess pkt with
  | none => simp only [Option.map_none, Option.toList_none, List.append_nil]
  | some resp => rfl

/-- D33: with the default hook a GET or SET request leaves the state as it is. -/
theorem localParam_default (pkt : List Byte) (s : State) : localParam Config.params pkt s = s := by
  simp only [localParam, params_paramAccess]

/-- Settles O29. -/
theorem ignoredAndLocalRequestsLeaveTheBlockAlone : Obligations.IgnoredAndLocalRequestsLeaveTheBlockAlone := by
  intro paramId o s
  refine ⟨rfl, ?_, ?_, fun P pkt => localParam_eq P pkt s⟩
  · rw [exec_getCommand, localParam_default]
  · rw [exec_setCommand, localParam_default]

/-! ### Responses that go to the host -/

/-- R159, D14: the frame of the timeout path. -/
theorem timeoutFrame_default :
    encodeFrame Config.params Config.params.labels.rdmTimeout [] = [0x7E, 0x0C, 0x00, 0x00, 0xE7] := rfl

/-- R159: what the timeout path writes. -/
theorem timeoutPath_default (s : State) :
    timeoutPath Config.params s
      = { s with
          trace := s.trace ++ [.rdmResponseTimeout]
          hostTx := s.hostTx ++ [0x7E, 0x0C, 0x00, 0x00, 0xE7]
          deadline := none } := by
  rw [← timeoutFrame_default]
  rfl

/-- R179: the forwarded bytes, the cut at the end of the packet being the one that `take` makes. -/
theorem rdmForwardPayload_eq (pkt : List Byte) (k : Nat) : rdmForwardPayload pkt k = 0 :: pkt.take k := by
  rw [rdmForwardPayload, Nat.min_comm, ← List.take_eq_take_min, List.singleton_append]

/-- R180: the packet forwarded, then the timeout path. -/
theorem discoveryResponseSeen_default (pkt : List Byte) (k : Nat) (s : State) :
    discoveryResponseSeen Config.params pkt k s
      = { s with
          hostTx := s.hostTx ++ encodeFrame Config.params 5 (0 :: pkt.take k) ++ [0x7E, 0x0C, 0x00, 0x00, 0xE7]
          deadline := none
          trace := s.trace ++ [.rdmResponseTimeout] } := by
  rw [discoveryResponseSeen, timeoutPath_default, receivedDmxPacketRdm, emit_eq, rdmForwardPayload_eq]
  rfl

/-- Settles O30. -/
theorem discoveryResponsesForwardAndTimeOut : Obligations.DiscoveryResponsesForwardAndTimeOut := by
  intro paramId o rest s
  constructor
  · rw [exec_discoveryCommandResponse, discoveryResponseSeen_default]
    rfl
  · rw [exec_rawDiscoveryResponse, discoveryResponseSeen_default, List.take_of_length_le (by simp)]
    rfl

/-! ### The engine -/

/-- R167: a raw packet goes to the host before any view. -/
theorem rdmEngine_of_raw (P : Params) {pkt : List Byte} (raw : isRawResponse pkt = true) (s : State) :
    rdmEngine P pkt s = discoveryResponseSeen P pkt pkt.length s := if_pos raw

/-- R166: a packet without a view is dropped. -/
theorem rdmEngine_of_short (P : Params) {pkt : List Byte} (not_raw : isRawResponse pkt = false)
    (no_view : viewPacket pkt = none) (s : State) : rdmEngine P pkt s = s := by
  simp [rdmEngine, not_raw, no_view]

/-- R168: the addressing test of a viewed packet. -/
theorem rdmEngine_of_view (P : Params) {pkt : List Byte} {v : RdmPacket} (not_raw : isRawResponse pkt = false)
    (view : viewPacket pkt = some v) (s : State) :
    rdmEngine P pkt s
      = if addressed P v = true then runBusOp P v s (busOpOf P.rdm v.commandClass v.paramId)
        else raise (.addressMismatch v.operands.destination) s := by
  simp [rdmEngine, not_raw, view]

/-- Settles O32, by the ways a packet decodes. -/
theorem engineRunsTheDecodedPacket : Obligations.EngineRunsTheDecodedPacket := by
  intro pkt s
  constructor
  · intro e rejected
    obtain ⟨not_raw, no_view, -⟩ := decodePacket_error rejected
    rw [exec_rdmEngine, rdmEngine_of_short _ not_raw no_view]
  · intro i decoded
    refine ⟨_, exec_rdmEngine pkt s, ?_⟩
    rcases decodePacket_ok decoded with ⟨raw, rfl⟩ | ⟨v, not_raw, view, rfl⟩
    · rw [if_pos (.inl ((isRawResponse_iff pkt).1 raw)), rdmEngine_of_raw _ raw, exec_rawDiscoveryResponse,
        ← eq_of_isRawResponse raw, eq_of_isRawResponse raw]
      rfl
    · have head_ne : pkt.head? ≠ some 0xFE := fun head =>
        Bool.false_ne_true (not_raw.symm.trans ((isRawResponse_iff pkt).2 head))
      have destination := (viewPacket_some view).2
      simp only [head_ne, false_or, ← destination, ← addressed_iff]
      rw [rdmEngine_of_view _ not_raw view]
      split
      · exact exec_instrOfPacket v s
      · rfl

/-- R165 to R181: everything the engine can make of one packet. -/
inductive EngineEffect (P : Params) (pkt : List Byte) (s : State) : State → Prop where
  /-- a reply on the bus or none, a condition or none (R166, R168, R170, R176, R178) -/
  | reply (sent : List BusEvent) (raised : List Condition) (one : raised.length ≤ 1) :
      EngineEffect P pkt s { s with busLog := s.busLog ++ sent, trace := s.trace ++ raised }
  /-- an accepted mute or un-mute request (R173, R174) -/
  | mute (v : RdmPacket) (flag : Bool) (sent : List BusEvent) (not_raw : isRawResponse pkt = false)
      (view : viewPacket pkt = some v) (to_me : addressed P v = true)
      (discovery : v.commandClass = P.rdm.discoveryCommand) (no_data : v.operands.pdl = 0)
      (selected : v.paramId = if flag then P.rdm.discMute else P.rdm.discUnMute) :
      EngineEffect P pkt s { s with rdmIsMuted := flag, busLog := s.busLog ++ sent }
  /-- a discovery response (R180) -/
  | response (k : Nat) : EngineEffect P pkt s (discoveryResponseSeen P pkt k s)
  /-- any other class (R181) -/
  | forward (k : Nat) : EngineEffect P pkt s (disarmDeadline (receivedDmxPacketRdm P pkt k s))

namespace EngineEffect

variable {P : Params} {pkt : List Byte} {s : State}

theorem silent : EngineEffect P pkt s s := by
  simpa using EngineEffect.reply (P := P) (pkt := pkt) (s := s) [] [] (by simp)

theorem sent (bytes : List Byte) : EngineEffect P pkt s (busSend bytes s) := by
  simpa [busSend] using EngineEffect.reply (P := P) (pkt := pkt) (s := s) [.send bytes] [] (by simp)

theorem raised (c : Condition) : EngineEffect P pkt s (raise c s) := by
  simpa [raise] using EngineEffect.reply (P := P) (pkt := pkt) (s := s) [] [c] (by simp)

/-- R173 to R176: an addressed mute or un-mute request is accepted or malformed. -/
theorem of_writeMute {v : RdmPacket} {flag : Bool} (not_raw : isRawResponse pkt = false) (view : viewPacket pkt = some v)
    (to_me : addressed P v = true) (discovery : v.commandClass = P.rdm.discoveryCommand)
    (selected : v.paramId = if flag then P.rdm.discMute else P.rdm.discUnMute) :
    EngineEffect P pkt s (writeMute P flag v s) := by
  rw [writeMute_eq]
  split
  · next no_data => exact .mute v flag _ not_raw view to_me discovery no_data selected
  · exact .reply _ _ (by simp)

theorem of_localParam (bytes : List Byte) : EngineEffect P pkt s (localParam P bytes s) := by
  unfold localParam
  split
  · exact silent
  · exact sent _

end EngineEffect

/-- R165: by the actions an addressed packet selects. -/
theorem runBusOp_effect {P : Params} {pkt : List Byte} {v : RdmPacket} (not_raw : isRawResponse pkt = false)
    (view : viewPacket pkt = some v) (to_me : addressed P v = true) (s : State) :
    EngineEffect P pkt s (runBusOp P v s (busOpOf P.rdm v.commandClass v.paramId)) := by
  obtain ⟨rfl, -⟩ := viewPacket_some view
  unfold busOpOf
  split
  · next discovery =>
    split
    · simp only [runBusOp, discUniqueBranch]
      split
      · exact .sent _
      · exact .silent
    split
    · next selected => exact .of_writeMute not_raw view to_me discovery selected
    split
    · next selected => exact .of_writeMute not_raw view to_me discovery selected
    · exact .silent
  split
  · exact .of_localParam _
  split
  · exact .of_localParam _
  split
  · exact .response _
  · exact .forward _

/-- R165: by the raw test, the view and the addressing test. -/
theorem rdmEngine_effect (P : Params) (pkt : List Byte) (s : State) : EngineEffect P pkt s (rdmEngine P pkt s) := by
  cases not_raw : isRawResponse pkt with
  | true =>
    rw [rdmEngine_of_raw P not_raw]
    exact .response _
  | false =>
    cases view : viewPacket pkt with
    | none =>
      rw [rdmEngine_of_short P not_raw view]
      exact .silent
    | some v =>
      rw [rdmEngine_of_view P not_raw view]
      split
      · next to_me => exact runBusOp_effect not_raw view to_me s
      · exact .raised _

/-- 44_rdm_engine.md section 5: the five fields the engine writes. -/
theorem EngineEffect.frame {P : Params} {pkt : List Byte} {s t : State} (effect : EngineEffect P pkt s t) :
    t = { s with
      busLog := t.busLog
      hostTx := t.hostTx
      rdmIsMuted := t.rdmIsMuted
      deadline := t.deadline
      trace := t.trace } := by
  cases effect <;> rfl

/-- Settles O33: a reply and an accepted mute request write no host frame, a response and a forwarded packet write
nothing on the bus. -/
theorem engineNeverRepliesAndForwards : Obligations.EngineNeverRepliesAndForwards := by
  intro P pkt s
  have effect := rdmEngine_effect P pkt s
  refine ⟨effect.frame, ?_⟩
  generalize rdmEngine P pkt s = t at effect
  cases effect with
  | reply => exact .inr rfl
  | mute => exact .inr rfl
  | response => exact .inl rfl
  | forward => exact .inl rfl

end Sys2Proof.Machine
end

section
/-! The host commands of 42_host_commands.md and the frames the block writes (30_encoding.md section 2): the next state
of each, field by field. -/

namespace Sys2Proof.Machine

/-! ### The handlers -/

/-- Settles O12, by the answer of PARAMS_VALIDATE. -/
theorem setWidgetParamsStoresWhatIsAccepted : Obligations.SetWidgetParamsStoresWhatIsAccepted := by
  intro payload s
  rw [exec_setWidgetParams, setWidgetParams]
  cases Config.params.paramsValidate payload with
  | none => rfl
  | some c => rfl

/-- Settles O14: output-only mode is left, the reply is one `emit`, and the direction is forced last. -/
theorem identityStringsAreReplied : Obligations.IdentityStringsAreReplied := by
  intro payload s
  constructor
  · rw [exec_manufacturerLabel, manufacturerLabel, manufacturerLabelReply, emit_eq]
    rfl
  · rw [exec_getWidgetName, getWidgetName, getWidgetNameReply, emit_eq]
    rfl

/-- R137: what label 6 leaves. -/
theorem outputOnlySendDmxPacket_eq (P : Params) (payload : List Byte) (s : State) :
    outputOnlySendDmxPacket P payload s
      = { s with
          dmxBuf := copySlots P s.dmxBuf payload
          outputElapsedUs := s.clock
          outputLength := min payload.length P.dmxBufLen
          busLog := s.busLog ++ [.dir .output true]
          portDirection := .output
          outputOnly := true } := rfl

/-- Settles O15: the buffer is `copySlots`, whose bytes are those of `byteAt_copySlots`. -/
theorem outputOnlyCopiesTheSlots : Obligations.OutputOnlyCopiesTheSlots := by
  intro payload s buffer
  refine ⟨copySlots Config.params s.dmxBuf payload, ?_, ?_, fun k => ?_⟩
  · rw [exec_outputOnlySendDmxPacket, outputOnlySendDmxPacket_eq, params_dmxBufLen]
  · rw [copySlots_length, buffer]
  · exact byteAt_copySlots Config.params s.dmxBuf payload k buffer

/-- R138: the first payload byte is the policy; without one it is kept. -/
theorem setReceivePolicy_eq (payload : List Byte) (s : State) :
    setReceivePolicy payload s = { s with receivePolicy := payload.head?.getD s.receivePolicy } := by
  cases payload with
  | nil => rfl
  | cons b bs => rfl

/-- R138: what label 8 leaves. -/
theorem receiveDmxOnChange_eq (P : Params) (payload : List Byte) (s : State) :
    receiveDmxOnChange P payload s
      = { s with
          outputOnly := false
          receivePolicy := payload.head?.getD s.receivePolicy
          dmxBuf := List.replicate P.dmxBufLen 0
          cosShadow := List.replicate P.dmxBufLen 0
          busLog := s.busLog ++ [.dir .input false, .dir .input true]
          portDirection := .input } := by
  have log_in_order : (s.busLog ++ [.dir .input false]) ++ [.dir .input true]
      = s.busLog ++ [.dir .input false, .dir .input true] := List.append_assoc ..
  rw [receiveDmxOnChange, setReceivePolicy_eq, ← log_in_order]
  rfl

/-- Settles O16. -/
theorem receiveDmxOnChangeSetsPolicyAndZeroes : Obligations.ReceiveDmxOnChangeSetsPolicyAndZeroes := by
  intro payload s
  rw [exec_receiveDmxOnChange, receiveDmxOnChange_eq, params_dmxBufLen]

/-- R139: payload byte 20 is there and is the discovery class. -/
theorem isDiscoveryPayload_eq (P : Params) (payload : List Byte) :
    isDiscoveryPayload P payload = decide (payload[20]? = some P.rdm.discoveryCommand) := by
  have class_byte : 20 < payload.length ∧ byteAt payload 20 = P.rdm.discoveryCommand
      ↔ payload[20]? = some P.rdm.discoveryCommand := by
    rw [List.getElem?_eq_some_iff, byteAt, List.getD_eq_getElem?_getD]
    constructor
    · rintro ⟨long, byte⟩
      exact ⟨long, by rwa [List.getElem?_eq_getElem long, Option.getD_some] at byte⟩
    · rintro ⟨long, byte⟩
      exact ⟨long, by rwa [List.getElem?_eq_getElem long, Option.getD_some]⟩
  exact decide_eq_decide.2 class_byte

/-- Settles O18: the transmit sequence, run after the two flags are written; it reads neither. -/
theorem sendRdmPacketTransmitsThePayload : Obligations.SendRdmPacketTransmitsThePayload := by
  intro payload s
  rw [exec_sendRdmPacket, sendRdmPacket, rdmTransmit_eq, isDiscoveryPayload_eq]
  rfl

/-! ### The frames the block writes -/

/-- Settles O22: each row is one `emit`. -/
theorem replyRowsAppendTheirFrame : Obligations.ReplyRowsAppendTheirFrame := by
  intro s
  refine ⟨?_, ?_, ?_, ?_⟩
  · rw [exec_getWidgetParamsReply, getWidgetParamsReply, emit_eq]
    rfl
  · rw [exec_getWidgetSnReply, getWidgetSnReply, emit_eq]
    rfl
  · rw [exec_manufacturerLabelReply, manufacturerLabelReply, emit_eq]
    rfl
  · rw [exec_getWidgetNameReply, getWidgetNameReply, emit_eq]
    rfl

/-- Settles O23: each row is one `emit`, of the payload its rule gives. -/
theorem forwardRowsAppendTheirFrame : Obligations.ForwardRowsAppendTheirFrame := by
  intro s packet payload k
  refine ⟨?_, ?_, ?_, ?_⟩
  · rw [exec_receivedDmxPacketDmx, receivedDmxPacketDmx, emit_eq]
    rfl
  · rw [exec_receivedDmxPacketRdm, receivedDmxPacketRdm, emit_eq, rdmForwardPayload_eq]
    rfl
  · rw [exec_receivedDmxCos, receivedDmxCos, emit_eq]
    rfl
  · rw [exec_rdmTimeout, rdmTimeout, emit_eq, timeoutFrame_default]

end Sys2Proof.Machine
end

section
/-! The reactions of 43_reactions.md: the guards of RDM_IN_DISPATCH, DMX_IN_FORWARD and CHANGE_OF_STATE in the terms of
the state, and what each action leaves. -/

namespace Sys2Proof.Machine

/-- R152, D17. -/
theorem rdmInGuard_iff (s : State) : rdmInGuard s = true ↔ s.mode ≠ .rdmSniffer ∧ s.receivePolicy ≠ 1 := by
  simp only [rdmInGuard, Bool.and_eq_true, bne_iff_ne, Config.sendOnChangeOnly]

theorem dmxInputOpen_iff (s : State) :
    dmxInputOpen s = true ↔ s.mode ≠ .rdmSniffer ∧ s.rdmDiscoveryRunning = false ∧ s.portDirection = .input := by
  simp only [dmxInputOpen, Bool.and_eq_true, bne_iff_ne, beq_iff_eq, and_assoc]

/-- R153, D17. -/
theorem dmxInForwardGuard_iff (s : State) :
    dmxInForwardGuard s = true
      ↔ s.mode ≠ .rdmSniffer ∧ s.rdmDiscoveryRunning = false ∧ s.portDirection = .input ∧ s.receivePolicy = 0
        ∧ s.busDmxFresh = true := by
  simp only [dmxInForwardGuard, Bool.and_eq_true, dmxInputOpen_iff, beq_iff_eq, Config.sendAlways, and_assoc]

/-- R157, D17. -/
theorem changeOfStateGuard_iff (s : State) :
    changeOfStateGuard s = true
      ↔ s.mode ≠ .rdmSniffer ∧ s.rdmDiscoveryRunning = false ∧ s.portDirection = .input ∧ s.receivePolicy = 1
        ∧ s.busDmxFresh = true := by
  simp only [changeOfStateGuard, Bool.and_eq_true, dmxInputOpen_iff, beq_iff_eq, Config.sendOnChangeOnly, and_assoc]

/-- R152: without a packet nothing is taken. -/
theorem rdmInDispatch_of_none (P : Params) {s : State} (no_packet : s.busRdm = none) : rdmInDispatch P s = s := by
  simp [rdmInDispatch, no_packet]

/-- R152: a packet goes to the engine, and is taken, when mode and policy allow. -/
theorem rdmInDispatch_of_some (P : Params) {s : State} {pkt : List Byte} (offered : s.busRdm = some pkt) :
    rdmInDispatch P s
      = if s.mode ≠ .rdmSniffer ∧ s.receivePolicy ≠ 1 then rdmEngine P pkt { s with busRdm := none } else s := by
  simp only [rdmInDispatch, offered]
  exact if_congr (rdmInGuard_iff s) rfl rfl

/-- Settles O35, by whether a packet is offered. -/
theorem rdmInDispatchTakesGuardedPackets : Obligations.RdmInDispatchTakesGuardedPackets := by
  intro s
  refine ⟨_, exec_rdmInDispatch s, ?_⟩
  cases offered : s.busRdm with
  | none => exact rdmInDispatch_of_none _ offered
  | some pkt =>
    rw [rdmInDispatch_of_some _ offered]
    by_cases allowed : s.mode ≠ .rdmSniffer ∧ s.receivePolicy ≠ 1
    · simp only [if_pos allowed]
      exact exec_rdmEngine pkt _
    · simp only [if_neg allowed]

/-- Settles O37: under the guard the row of label 5, then the consume. -/
theorem dmxInForwardEmitsAndConsumes : Obligations.DmxInForwardEmitsAndConsumes := by
  intro s
  refine ⟨_, exec_receivedDmxPacketDmx s, ?_⟩
  rw [exec_dmxInForward, dmxInForward]
  exact congrArg _ (if_congr (dmxInForwardGuard_iff s) rfl rfl)

/-- R157: some slot differs from the shadow. -/
theorem changedSlots_isEmpty_iff (P : Params) (dmxBuf cosShadow : List Byte) :
    (changedSlots P dmxBuf cosShadow).isEmpty = true
      ↔ ¬ ∃ k ∈ List.range P.dmxBufLen, byteAt dmxBuf k ≠ byteAt cosShadow k := by
  rw [changedSlots, List.isEmpty_iff, List.filter_eq_nil_iff]
  simp only [bne_iff_ne, not_exists, not_and]

/-- R157: the frames of the payloads in order, and the shadow the whole buffer. -/
theorem forwardChanges_eq (P : Params) (s : State) :
    forwardChanges P s
      = { s with
          hostTx := s.hostTx ++ (P.cosEncode s.cosShadow s.dmxBuf).flatMap (encodeFrame P P.labels.receivedDmxCos)
          cosShadow := s.dmxBuf } := by
  rw [forwardChanges, emitChanges_eq]

/-- Settles O38, by the guard and by whether some slot differs. -/
theorem changeOfStateForwardsDifferences : Obligations.ChangeOfStateForwardsDifferences := by
  intro s
  refine ⟨List.cons_ne_nil _ _, ?_⟩
  rw [exec_changeOfState, changeOfState]
  congr 1
  refine if_congr (changeOfStateGuard_iff s) ?_ rfl
  by_cases differs : ∃ k ∈ List.range 513, byteAt s.dmxBuf k ≠ byteAt s.cosShadow k
  · rw [if_pos differs, if_neg fun empty => (changedSlots_isEmpty_iff Config.params _ _).1 empty differs,
      forwardChanges_eq]
    rfl
  · rw [if_neg differs, if_pos ((changedSlots_isEmpty_iff Config.params _ _).2 differs)]
    rfl

/-- Settles O40: the state the timeout path answers is disarmed, so a check of it finds nothing due. -/
theorem timeoutPathReportsOnceAndHeartbeatIsSilent : Obligations.TimeoutPathReportsOnceAndHeartbeatIsSilent := by
  intro s
  refine ⟨?_, ?_, rfl⟩
  · rw [exec_timeoutPath, timeoutPath_default]
  · intro t reported
    rw [exec_timeoutPath] at reported
    cases reported
    rw [exec_rdmTimeoutCheck, rdmTimeoutCheck_disarmed _ rfl]

end Sys2Proof.Machine
end

section
/-! The Scheduler of 41_scheduler.md: the step at each table entry, the two passes, and an event that is several periods
late. -/

namespace Sys2Proof.Machine

/-! ### The step at a table entry -/

/-- R113: the step at a poll entry. -/
theorem step_at_poll {s : State} {i : Nat} {a : Action} (at_poll : s.pc = ⟨.poll, i⟩)
    (entry : Config.params.pollTable[i]? = some a) :
    step s = .next (setPc (afterPoll Config.params i) (runAction Config.params s a)) := by
  simp only [step, exec_schedIteration, schedIteration, pollStep, at_poll, entry]

/-- R113: the step at an event entry. -/
theorem step_at_event {s : State} {j : Nat} {period : U64} {a : Action} (at_event : s.pc = ⟨.event, j⟩)
    (entry : Config.params.eventTable[j]? = some (period, a)) :
    step s = .next (setPc (afterEvent Config.params j) (checkEntry Config.params j period a (enterEvent j s))) := by
  simp only [step, exec_schedIteration, schedIteration, eventStep, at_event, entry]

/-- R112, D11: the default event table has an entry at each index below 4, and none from there on. -/
theorem eventTable_entry {j : Nat} (inside : j < 4) : ∃ period a, Config.params.eventTable[j]? = some (period, a) :=
  ⟨_, _, List.getElem?_eq_getElem (show j < Config.params.eventTable.length from inside)⟩

theorem eventTable_none {j : Nat} (outside : 4 ≤ j) : Config.params.eventTable[j]? = none :=
  List.getElem?_eq_none outside

theorem pollTable_none {i : Nat} (outside : 3 ≤ i) : Config.params.pollTable[i]? = none :=
  List.getElem?_eq_none outside

/-- Log 20: the three kinds of `pc` outside the tables. -/
theorem step_outside_tables {s : State} {i : Nat}
    (outside : s.pc = ⟨.init, i + 1⟩ ∨ s.pc = ⟨.poll, i + 3⟩ ∨ s.pc = ⟨.event, i + 4⟩) :
    step s = .fault (.pcOutsideTables s.pc) := by
  rcases outside with hpc | hpc | hpc
  · simp [step, exec_schedIteration, schedIteration, hpc]
  · simp only [step, exec_schedIteration, schedIteration, pollStep, hpc, pollTable_none (Nat.le_add_left 3 i)]
    exact if_neg (Nat.succ_ne_zero _)
  · simp only [step, exec_schedIteration, schedIteration, eventStep, hpc, eventTable_none (Nat.le_add_left 4 i)]
    exact if_neg (Nat.succ_ne_zero _)

/-- Settles O44, by the place of `pc`. -/
theorem stepRunsTheEntryAtPc : Obligations.StepRunsTheEntryAtPc := by
  intro s
  refine ⟨rfl, ?_, ?_, ?_, fun i => step_outside_tables, ?_⟩
  · intro at_init
    refine ⟨_, exec_schedInit s, ?_⟩
    simp only [step, exec_schedIteration, schedIteration, at_init, if_true]
  · intro i a at_poll entry
    exact ⟨_, exec_action a s, step_at_poll at_poll entry⟩
  · intro j at_event inside
    obtain ⟨period, a, entry⟩ := eventTable_entry inside
    exact ⟨_, exec_eventCheck entry _, step_at_event at_event entry⟩
  · intro j outside
    exact exec_eventCheck_none (eventTable_none outside) s

/-- Settles O45: at (POLL, 0) the dispatch of the frame, at (POLL, 1) what the engine does with an addressed packet. -/
theorem stepRunsTheDecodedInstruction : Obligations.StepRunsTheDecodedInstruction := by
  intro s
  constructor
  · intro f at_host_rx delivered
    refine ⟨_, exec_instrOfFrame f _, ?_⟩
    rw [step_at_poll at_host_rx rfl, runAction, hostRx_of_frame delivered]
    rfl
  · intro pkt i at_dispatch mode policy offered decoded to_me
    obtain ⟨t, engine, runs⟩ := (engineRunsTheDecodedPacket pkt { s with busRdm := none }).2 i decoded
    rw [if_pos to_me] at runs
    refine ⟨t, runs, ?_⟩
    rw [exec_rdmEngine] at engine
    cases engine
    rw [step_at_poll at_dispatch rfl, runAction, rdmInDispatch_of_some _ offered, if_pos ⟨mode, policy⟩]
    rfl

/-! ### The passes -/

/-- R116: a check writes none of the Scheduler's fields but its counter. -/
theorem checkEntry_kept (P : Params) (j : Nat) (period : U64) (a : Action) (s : State) :
    SchedulerFieldsKept { s with lastFire := (checkEntry P j period a s).lastFire } (checkEntry P j period a s)
      ∧ (checkEntry P j period a s).lastFire.length = s.lastFire.length := by
  rcases checkEntry_cases P j period a s with ⟨-, kept⟩ | ⟨-, fired⟩
  · rw [kept]
    exact ⟨.refl s, rfl⟩
  · obtain ⟨started, counters, sample, pc, mode, clock⟩ := runEventAction_kept P s a
    rw [fired]
    exact ⟨⟨started, rfl, sample, pc, mode, clock⟩, by rw [advanceLastFire_lastFire, List.length_set, counters]⟩

theorem checkEntry_nowE (P : Params) (j : Nat) (period : U64) (a : Action) (s : State) :
    (checkEntry P j period a s).nowE = s.nowE := by
  obtain ⟨⟨-, -, sample, -⟩, -⟩ := checkEntry_kept P j period a s
  exact sample

/-- Settles O43: the default tables have the three and the four entries, and no check writes the sample. -/
theorem passesRunEveryEntryInOrder : Obligations.PassesRunEveryEntryInOrder := by
  intro s
  refine ⟨⟨_, _, _, exec_hostRx s, exec_rdmInDispatch _, exec_dmxOutPump _, exec_pollPass s⟩,
    _, _, _, _, exec_eventCheck rfl _, exec_eventCheck rfl _, exec_eventCheck rfl _, exec_eventCheck rfl _,
    exec_eventPass s, ?_⟩
  simp only [checkEntry_nowE]

/-- R113: a step of the machine behind the host's interface, and the steps after it. -/
theorem core_run_succ {s t : State} (stepped : step s = .next t) (k : Nat) :
    Sys2Proof.core.run (k + 1) s = Sys2Proof.core.run k t := by
  have core_step : Sys2Proof.core.step s = .next t := stepped
  simp only [Host.Core.run, core_step]

/-- R114, D11: the poll pass over the default table. -/
theorem pollPass_default (s : State) :
    pollPass Config.params s
      = runAction Config.params (runAction Config.params (runAction Config.params s .hostRx) .rdmInDispatch)
        .dmxOutPump := rfl

/-- R115, D11: the event pass over the default table. -/
theorem eventPass_default (s : State) :
    eventPass Config.params s
      = checkEntry Config.params 3 Config.pHeartbeat .heartbeat
        (checkEntry Config.params 2 Config.pTimeout .rdmTimeoutCheck
          (checkEntry Config.params 1 Config.pCos .changeOfState
            (checkEntry Config.params 0 Config.pDmxIn .dmxInForward (sampleEventClock s)))) := rfl

/-- R114, R152: an action writes `pc` nowhere. -/
theorem runAction_pc (P : Params) (s : State) (a : Action) : (runAction P s a).pc = s.pc := by
  obtain ⟨-, -, -, pc, -⟩ := runAction_kept P s a
  exact pc

theorem checkEntry_pc (P : Params) (j : Nat) (period : U64) (a : Action) (s : State) :
    (checkEntry P j period a s).pc = s.pc := by
  obtain ⟨⟨-, -, -, pc, -⟩, -⟩ := checkEntry_kept P j period a s
  exact pc

theorem setPc_setPc (p q : Pc) (s : State) : setPc p (setPc q s) = setPc p s := rfl

/-- R113: the three poll steps are the poll pass with `pc` at (EVENT, 0): no action reads `pc`. -/
theorem core_run_poll {s : State} (at_poll : s.pc = ⟨.poll, 0⟩) (k : Nat) :
    Sys2Proof.core.run (k + 3) s = Sys2Proof.core.run k (setPc ⟨.event, 0⟩ (pollPass Config.params s)) := by
  rw [core_run_succ (step_at_poll at_poll rfl), core_run_succ (step_at_poll (i := 1) rfl rfl),
    core_run_succ (step_at_poll (i := 2) rfl rfl), pollPass_default]
  simp only [runAction_setPc, setPc_setPc]
  rfl

/-- R113: the four event steps are the event pass with `pc` at (POLL, 0). -/
theorem core_run_event (s : State) (k : Nat) :
    Sys2Proof.core.run (k + 4) (setPc ⟨.event, 0⟩ s)
      = Sys2Proof.core.run k (setPc ⟨.poll, 0⟩ (eventPass Config.params s)) := by
  have sampled : enterEvent 0 (setPc ⟨.event, 0⟩ s) = setPc ⟨.event, 0⟩ (sampleEventClock s) := rfl
  have not_sampled : ∀ j t, enterEvent (j + 1) t = t := fun j t => if_neg (Nat.succ_ne_zero j)
  rw [core_run_succ (step_at_event (j := 0) rfl rfl), core_run_succ (step_at_event (j := 0 + 1) rfl rfl),
    core_run_succ (step_at_event (j := 1 + 1) rfl rfl), core_run_succ (step_at_event (j := 2 + 1) rfl rfl),
    eventPass_default]
  simp only [sampled, not_sampled, checkEntry_setPc, setPc_setPc]
  rfl

/-- Settles O46: three poll steps and four event steps, after which `pc` is where it was. -/
theorem sevenStepsAreOneIteration : Obligations.SevenStepsAreOneIteration := by
  intro s at_poll
  refine ⟨_, _, exec_pollPass s, exec_eventPass _, ?_⟩
  have back : (eventPass Config.params (pollPass Config.params s)).pc = ⟨.poll, 0⟩ := by
    rw [eventPass_default, pollPass_default]
    simp only [checkEntry_pc, sampleEventClock_pc, runAction_pc, at_poll]
  rw [core_run_poll at_poll 4, core_run_event _ 0, ← back]
  rfl

/-! ### A late event -/

/-- R116: a check of an entry that is due, where the sum does not overflow, advances its counter by one period; the sample
and the number of counters stay. -/
theorem checkEntry_of_due {P : Params} {j : Nat} {period : U64} {a : Action} {s : State}
    (counter : j < s.lastFire.length) (no_overflow : (lastFireAt j s).toNat + period.toNat < 2 ^ 64)
    (due : (lastFireAt j s).toNat + period.toNat ≤ s.nowE.toNat) :
    (lastFireAt j (checkEntry P j period a s)).toNat = (lastFireAt j s).toNat + period.toNat := by
  have sum : (lastFireAt j s + period).toNat = (lastFireAt j s).toNat + period.toNat := by
    rw [BitVec.toNat_add, Nat.mod_eq_of_lt no_overflow]
  rcases checkEntry_cases P j period a s with ⟨early, -⟩ | ⟨-, fired⟩
  · rw [(eventDue_iff ..).2 (by rw [sum]; exact due)] at early
    cases early
  · obtain ⟨-, counters, -⟩ := runEventAction_kept P s a
    rw [fired, ← sum]
    simp [lastFireAt, counters, counter]

/-- R116: a check of an entry that is not due leaves the state as it is. -/
theorem checkEntry_of_early {P : Params} {j : Nat} {period : U64} {a : Action} {s : State}
    (no_overflow : (lastFireAt j s).toNat + period.toNat < 2 ^ 64)
    (early : s.nowE.toNat < (lastFireAt j s).toNat + period.toNat) : checkEntry P j period a s = s := by
  have not_due : ¬ eventDue s.nowE (lastFireAt j s) period = true := by
    rw [eventDue_iff, BitVec.toNat_add, Nat.mod_eq_of_lt no_overflow]
    exact Nat.not_le.2 early
  exact if_neg not_due

/-- R117: `k` checks of an entry that is at least `n ≥ k` periods late. -/
theorem checkEntry_iterate {P : Params} {j n : Nat} {period : U64} {a : Action} {s : State}
    (counter : j < s.lastFire.length) (late : (lastFireAt j s).toNat + n * period.toNat ≤ s.nowE.toNat) (k : Nat)
    (hk : k ≤ n) :
    (lastFireAt j ((checkEntry P j period a)^[k] s)).toNat = (lastFireAt j s).toNat + k * period.toNat
      ∧ ((checkEntry P j period a)^[k] s).nowE = s.nowE
      ∧ ((checkEntry P j period a)^[k] s).lastFire.length = s.lastFire.length := by
  induction k with
  | zero => simp
  | succ k ih =>
    obtain ⟨fired, sample, counters⟩ := ih (Nat.le_of_succ_le hk)
    have bound := s.nowE.isLt
    have periods : (k + 1) * period.toNat ≤ n * period.toNat := Nat.mul_le_mul_right _ hk
    rw [Nat.succ_mul] at periods ⊢
    rw [Function.iterate_succ_apply']
    refine ⟨?_, by rw [checkEntry_nowE, sample], ?_⟩
    · rw [checkEntry_of_due (by rwa [counters]) (by omega) (by rw [sample]; omega), fired, Nat.add_assoc]
    · obtain ⟨-, kept⟩ := checkEntry_kept P j period a ((checkEntry P j period a)^[k] s)
      rw [kept, counters]

/-- Settles O47: `n` checks fire, and the counter they leave is less than a period behind the sample. -/
theorem lateEventFiresOncePerCheck : Obligations.LateEventFiresOncePerCheck := by
  intro P j n period a s counter late not_later no_overflow
  refine ⟨fun k hk => (checkEntry_iterate counter late k hk).1, ?_⟩
  obtain ⟨fired, sample, -⟩ := checkEntry_iterate (P := P) (a := a) counter late n le_rfl
  have next_fire : (lastFireAt j ((checkEntry P j period a)^[n] s)).toNat + period.toNat
      = (s.lastFire.getD j 0).toNat + (n + 1) * period.toNat := by
    rw [fired, Nat.succ_mul, Nat.add_assoc]
    rfl
  exact checkEntry_of_early (by rwa [next_fire]) (by rwa [next_fire, sample])

end Sys2Proof.Machine
end

section
/-! The legal states of 10_state.md section 7: reset is one, and every step and every move of the environment keeps them;
so every state of a run is legal and has a next step. -/

namespace Sys2Proof.Machine

/-! ### The framer's registers -/

/-- R91 to R96: one byte keeps the framer's registers consistent. -/
theorem decStep_codecWf {P : Params} {c : Codec} (wf : CodecWf P c) (b : Byte) : CodecWf P (decStep P c b).1 := by
  obtain ⟨buffer, count, missing, stored⟩ := wf
  cases hs : c.decState with
  | hunt =>
    rw [decStep_hunt P c b hs]
    split
    · exact ⟨buffer, count, nofun, nofun⟩
    · exact ⟨buffer, count, missing, stored⟩
  | label =>
    rw [decStep_label P c b hs]
    exact ⟨buffer, count, nofun, nofun⟩
  | lenLo =>
    rw [decStep_lenLo P c b hs]
    exact ⟨buffer, count, nofun, nofun⟩
  | lenHi =>
    rw [decStep_lenHi P c b hs]
    split
    · next some_stored => exact ⟨buffer, Nat.zero_le _, fun _ => some_stored, nofun⟩
    · next none_stored => exact ⟨buffer, Nat.zero_le _, nofun, fun _ => Nat.le_of_not_lt none_stored⟩
  | payload =>
    have room := missing hs
    have fits : c.stored P ≤ P.cap := Nat.min_le_right _ _
    rw [decStep_payload P c b hs]
    split
    · next last => exact ⟨by simpa using buffer, Nat.le_trans room fits, nofun, fun _ => Nat.le_of_eq last.symm⟩
    · next not_last =>
      exact ⟨by simpa using buffer, Nat.le_trans room fits, fun _ => Nat.lt_of_le_of_ne room not_last, nofun⟩
  | endSearch =>
    rw [decStep_endSearch P c b hs]
    split
    · exact ⟨buffer, count, nofun, nofun⟩
    split
    · exact ⟨buffer, count, nofun, nofun⟩
    · next below =>
      have not_payload : c.decState ≠ .payload := by rw [hs]; exact DecState.noConfusion
      exact ⟨buffer, Nat.lt_of_not_le below, fun in_payload => absurd in_payload not_payload,
        fun _ => Nat.le_succ_of_le (stored hs)⟩

/-- R97: a decoder call keeps the framer's registers consistent. -/
theorem decodeBytes_codecWf {P : Params} {c : Codec} (wf : CodecWf P c) (bs : List Byte) :
    CodecWf P (decodeBytes P c bs).codec := by
  induction bs generalizing c with
  | nil => exact wf
  | cons b bs ih =>
    have stepped := decStep_codecWf wf b
    rcases e : decStep P c b with ⟨c', _ | f | ⟨label, len⟩⟩
    · rw [decodeBytes_cons_none bs e]
      exact ih (by rwa [e] at stepped)
    · rw [decodeBytes_cons_frame bs e]
      rwa [e] at stepped
    · rw [decodeBytes_cons_discard bs e]
      rwa [e] at stepped

/-! ### The part of a legal state that actions write -/

/-- R12, R20, R28(a), R40: the part of `Legal` that is about the fields an action writes. -/
def BlockWf (P : Params) (s : State) : Prop :=
  Memory.wf P s ∧ CodecWf P s.codec ∧ s.outputLength ≤ P.dmxBufLen ∧ (s.outputOnly = true → s.portDirection = .output)

/-- R14, R16, R17: the part of `Legal` that is about the fields the Scheduler writes. -/
def SequencerWf (P : Params) (s : State) : Prop :=
  PcWf P s.pc ∧ s.lastFire.length = P.eventTable.length ∧ s.mode = P.mode
    ∧ (s.schedStarted = false ↔ s.pc.phase = .init)

theorem legal_iff (P : Params) (s : State) : Legal P s ↔ BlockWf P s ∧ SequencerWf P s := by
  simp only [Legal, BlockWf, SequencerWf]
  constructor
  · rintro ⟨memory, codec, pc, counters, length, direction, mode, started⟩
    exact ⟨⟨memory, codec, length, direction⟩, pc, counters, mode, started⟩
  · rintro ⟨⟨memory, codec, length, direction⟩, pc, counters, mode, started⟩
    exact ⟨memory, codec, pc, counters, length, direction, mode, started⟩

/-- R28(a): outside output-only mode the direction is free. -/
theorem BlockWf.of_left_output {P : Params} {s : State} (memory : Memory.wf P s) (codec : CodecWf P s.codec)
    (length : s.outputLength ≤ P.dmxBufLen) (left : s.outputOnly = false) : BlockWf P s :=
  ⟨memory, codec, length, fun entered => Bool.noConfusion (left.symm.trans entered)⟩

/-- R131, R137: a handler that turns the bus to INPUT has left output-only mode; label 6 turns it to OUTPUT. -/
theorem runHostOp_blockWf {P : Params} {s : State} (wf : BlockWf P s) (f : Frame) (op : HostOp) :
    BlockWf P (runHostOp P f s op) := by
  obtain ⟨⟨rxBuf, dmxBuf, cosShadow⟩, codec, length, direction⟩ := wf
  cases op with
  | getWidgetParams => exact ⟨⟨rxBuf, dmxBuf, cosShadow⟩, codec, length, direction⟩
  | setWidgetParams =>
    rw [runHostOp, setWidgetParams]
    cases P.paramsValidate f.payload with
    | none => exact .of_left_output ⟨rxBuf, dmxBuf, cosShadow⟩ codec length rfl
    | some c => exact .of_left_output ⟨rxBuf, dmxBuf, cosShadow⟩ codec length rfl
  | outputOnlySendDmxPacket =>
    rw [runHostOp, outputOnlySendDmxPacket_eq]
    exact ⟨⟨rxBuf, by rw [copySlots_length, dmxBuf], cosShadow⟩, codec, Nat.min_le_right _ _, fun _ => rfl⟩
  | receiveDmxOnChange =>
    rw [runHostOp, receiveDmxOnChange_eq]
    exact .of_left_output ⟨rxBuf, List.length_replicate .., List.length_replicate ..⟩ codec length rfl
  | sendRdmPacket =>
    rw [runHostOp, sendRdmPacket, rdmTransmit_eq]
    exact .of_left_output ⟨rxBuf, dmxBuf, cosShadow⟩ codec length rfl
  | sendRdmDiscoveryRequest =>
    rw [runHostOp, sendRdmDiscoveryRequest, rdmTransmit_eq]
    exact .of_left_output ⟨rxBuf, dmxBuf, cosShadow⟩ codec length rfl
  | getWidgetSn => exact .of_left_output ⟨rxBuf, dmxBuf, cosShadow⟩ codec length rfl
  | manufacturerLabel => exact .of_left_output ⟨rxBuf, dmxBuf, cosShadow⟩ codec length rfl
  | getWidgetName => exact .of_left_output ⟨rxBuf, dmxBuf, cosShadow⟩ codec length rfl
  | unknown => exact ⟨⟨rxBuf, dmxBuf, cosShadow⟩, codec, length, direction⟩

theorem takeDecoded_blockWf {P : Params} {s : State} (wf : BlockWf P s) (bs : List Byte) :
    BlockWf P (takeDecoded (decodeBytes P s.codec bs) s) := by
  obtain ⟨memory, codec, length, direction⟩ := wf
  exact ⟨takeDecoded_memory_wf bs memory, decodeBytes_codecWf codec bs, length, direction⟩

/-- R152: what RDM_IN_DISPATCH leaves: the state as it is, or what the engine made of the packet it took. -/
theorem rdmInDispatch_effect (P : Params) (s : State) :
    rdmInDispatch P s = s
      ∨ ∃ pkt, s.busRdm = some pkt ∧ EngineEffect P pkt { s with busRdm := none } (rdmInDispatch P s) := by
  cases offered : s.busRdm with
  | none => exact .inl (rdmInDispatch_of_none P offered)
  | some pkt =>
    rw [rdmInDispatch_of_some P offered]
    split
    · exact .inr ⟨pkt, rfl, rdmEngine_effect P pkt _⟩
    · exact .inl rfl

/-- 44_rdm_engine.md section 5: the engine writes no field that a legal state restricts. -/
theorem EngineEffect.blockWf {P : Params} {pkt : List Byte} {s t : State} (effect : EngineEffect P pkt s t)
    (wf : BlockWf P s) : BlockWf P t := by
  rw [effect.frame]
  exact wf

/-- An action keeps the block's part of a legal state. -/
theorem runAction_blockWf {P : Params} {s : State} (wf : BlockWf P s) (a : Action) : BlockWf P (runAction P s a) := by
  cases a with
  | hostRx =>
    rw [runAction]
    rcases hostRx_cases P s with ⟨f, -, h⟩ | ⟨-, h⟩ | ⟨label, len, -, h⟩ <;> rw [h]
    · exact runHostOp_blockWf (takeDecoded_blockWf wf _) f _
    · exact takeDecoded_blockWf wf _
    · exact takeDecoded_blockWf wf _
  | rdmInDispatch =>
    rw [runAction]
    rcases rdmInDispatch_effect P s with kept | ⟨pkt, -, effect⟩
    · rwa [kept]
    · exact effect.blockWf wf
  | dmxOutPump =>
    rw [runAction]
    rcases dmxOutPump_cases s with h | ⟨-, -, h⟩ <;> rw [h] <;> exact wf
  | dmxInForward =>
    rw [runAction, dmxInForward]
    split <;> exact wf
  | changeOfState =>
    obtain ⟨⟨rxBuf, dmxBuf, cosShadow⟩, others⟩ := wf
    rw [runAction]
    rcases changeOfState_cases P s with h | h | h <;> rw [h]
    · exact ⟨⟨rxBuf, dmxBuf, cosShadow⟩, others⟩
    · exact ⟨⟨rxBuf, dmxBuf, cosShadow⟩, others⟩
    · exact ⟨⟨rxBuf, dmxBuf, dmxBuf⟩, others⟩
  | rdmTimeoutCheck =>
    rw [runAction]
    rcases rdmTimeoutCheck_cases P s with h | h <;> rw [h] <;> exact wf
  | heartbeat => exact wf

/-- R115, R116: so does a check, whatever its action. -/
theorem checkEntry_blockWf {P : Params} {s : State} (wf : BlockWf P s) (j : Nat) (period : U64) (a : Action) :
    BlockWf P (checkEntry P j period a s) := by
  rcases checkEntry_cases P j period a s with ⟨-, kept⟩ | ⟨-, fired⟩
  · rwa [kept]
  · rw [fired]
    exact runAction_blockWf (s := { s with clock := s.nowE }) wf a

theorem enterEvent_blockWf {P : Params} {s : State} (wf : BlockWf P s) (j : Nat) : BlockWf P (enterEvent j s) := by
  unfold enterEvent
  split <;> exact wf

/-! ### Steps -/

/-- R113: advancing `pc` from a started Scheduler to a place in a table. -/
theorem SequencerWf.advance {P : Params} {s t : State} {p : Pc} (wf : SequencerWf P s) (running : s.pc.phase ≠ .init)
    (started : t.schedStarted = s.schedStarted) (counters : t.lastFire.length = s.lastFire.length)
    (mode : t.mode = s.mode) (inside : PcWf P p) (left_init : p.phase ≠ .init) : SequencerWf P (setPc p t) := by
  obtain ⟨-, length, param, init⟩ := wf
  refine ⟨inside, counters.trans length, mode.trans param, ?_⟩
  rw [setPc_schedStarted, started, init]
  exact iff_of_false running left_init

theorem afterPoll_wf (P : Params) (i : Nat) : PcWf P (afterPoll P i) ∧ (afterPoll P i).phase ≠ .init := by
  unfold afterPoll
  split
  · next inside => exact ⟨.inl inside, nofun⟩
  · exact ⟨.inr rfl, nofun⟩

theorem afterEvent_wf (P : Params) (j : Nat) : PcWf P (afterEvent P j) ∧ (afterEvent P j).phase ≠ .init := by
  unfold afterEvent
  split
  · next inside => exact ⟨.inl inside, nofun⟩
  · exact ⟨.inr rfl, nofun⟩

theorem enterEvent_kept (j : Nat) (s : State) :
    (enterEvent j s).schedStarted = s.schedStarted ∧ (enterEvent j s).lastFire = s.lastFire
      ∧ (enterEvent j s).pc = s.pc ∧ (enterEvent j s).mode = s.mode ∧ (enterEvent j s).clock = s.clock := by
  unfold enterEvent
  split <;> exact ⟨rfl, rfl, rfl, rfl, rfl⟩

/-- 10_state.md section 7: for every value of the parameters, a step from a legal state leaves a legal state. -/
theorem schedIteration_legal {P : Params} {s t : State} (legal : Legal P s) (stepped : schedIteration P s = .next t) :
    Legal P t := by
  rw [legal_iff] at legal ⊢
  obtain ⟨block, sequencer⟩ := legal
  rcases schedIteration_cases stepped with
    ⟨-, rfl⟩ | ⟨i, a, hpc, -, rfl⟩ | ⟨hpc, -, rfl⟩ | ⟨j, period, a, hpc, -, rfl⟩ | ⟨hpc, -, rfl⟩
  · obtain ⟨-, -, mode, -⟩ := sequencer
    exact ⟨block, .inr rfl, by rw [schedInit_lastFire, List.length_map], mode, by simp⟩
  · obtain ⟨started, counters, -, -, mode, -⟩ := runAction_kept P s a
    obtain ⟨inside, left_init⟩ := afterPoll_wf P i
    exact ⟨runAction_blockWf block a,
      sequencer.advance (by simp [hpc]) started (congrArg _ counters) mode inside left_init⟩
  · exact ⟨block, sequencer.advance (by simp [hpc]) rfl rfl rfl (.inr rfl) nofun⟩
  · obtain ⟨started, counters, -, mode, -⟩ := enterEvent_kept j s
    obtain ⟨⟨started', -, -, -, mode', -⟩, counters'⟩ := checkEntry_kept P j period a (enterEvent j s)
    obtain ⟨inside, left_init⟩ := afterEvent_wf P j
    exact ⟨checkEntry_blockWf (enterEvent_blockWf block j) j period a,
      sequencer.advance (by simp [hpc]) (started'.trans started) (counters'.trans (congrArg _ counters))
        (mode'.trans mode) inside left_init⟩
  · exact ⟨block, sequencer.advance (by simp [hpc]) rfl rfl rfl (.inr rfl) nofun⟩

/-- Settles O50. -/
theorem stepKeepsLegalStates : Obligations.StepKeepsLegalStates := by
  intro s t legal stepped
  exact schedIteration_legal legal stepped

/-- R113: a step from a `pc` of the tables answers a next state. -/
theorem schedIteration_next {P : Params} {s : State} (inside : PcWf P s.pc) : ∃ t, schedIteration P s = .next t := by
  rcases hpc : s.pc with ⟨phase, i⟩
  rw [hpc] at inside
  simp only [schedIteration, hpc]
  cases phase with
  | init => exact ⟨_, if_pos inside⟩
  | poll =>
    unfold pollStep
    cases entry : P.pollTable[i]? with
    | some a => exact ⟨_, rfl⟩
    | none =>
      have first : i = 0 := inside.resolve_left (Nat.not_lt.2 (List.getElem?_eq_none_iff.1 entry))
      exact ⟨_, if_pos first⟩
  | event =>
    unfold eventStep
    cases entry : P.eventTable[i]? with
    | some e => exact ⟨_, rfl⟩
    | none =>
      have first : i = 0 := inside.resolve_left (Nat.not_lt.2 (List.getElem?_eq_none_iff.1 entry))
      exact ⟨_, if_pos first⟩

/-! ### Reset, the environment and runs -/

/-- Settles O48. -/
theorem resetLeavesTheQuiescentValues : Obligations.ResetLeavesTheQuiescentValues :=
  ⟨rfl, rfl, rfl, rfl, rfl, rfl, rfl, rfl, rfl, rfl, rfl, rfl, rfl, rfl, rfl, rfl, rfl, rfl⟩

/-- R211: the reset state is legal. -/
theorem resetWith_legal (P : Params) : Legal P (State.resetWith P) := by
  rw [legal_iff]
  exact ⟨⟨reset_memory_wf P, ⟨List.length_replicate .., Nat.zero_le _, nofun, nofun⟩, Nat.zero_le _, nofun⟩,
    rfl, List.length_replicate .., rfl, iff_of_true rfl rfl⟩

/-- Settles O49. -/
theorem resetIsLegal : Obligations.ResetIsLegal :=
  fun P => ⟨resetWith_legal P, resetWith_legal Config.params⟩

/-- R50: a move writes only the environment's state and DMX_BUF. -/
theorem envMove_frame {P : Params} {s t : State} {m : EnvMove} (moved : envMove P s m = some t) :
    t = { s with
      hostRx := t.hostRx
      busRdm := t.busRdm
      dmxBuf := t.dmxBuf
      busDmxFresh := t.busDmxFresh
      clock := t.clock } := by
  cases m with
  | hostBytes bytes => cases moved; rfl
  | offerPacket pkt =>
    rw [envMove] at moved
    split at moved <;> cases moved
    rfl
  | dmxPacket buffer =>
    rw [envMove] at moved
    split at moved <;> cases moved
    rfl
  | tick us =>
    rw [envMove] at moved
    split at moved <;> cases moved
    rfl

/-- R50, R52: a legal state stays legal, since a move keeps the length of DMX_BUF and writes nothing else that a
legal state restricts. -/
theorem envMove_legal {P : Params} {s t : State} {m : EnvMove} (moved : envMove P s m = some t) (legal : Legal P s) :
    Legal P t := by
  obtain ⟨memory, others⟩ := legal
  refine ⟨envMove_memory_wf memory moved, ?_⟩
  rw [envMove_frame moved]
  exact others

/-- Settles O60, by the four moves. -/
theorem environmentMovesOnlyItsPorts : Obligations.EnvironmentMovesOnlyItsPorts := by
  intro P s t m moved
  refine ⟨envMove_frame moved, ?_⟩
  suffices ports : s.hostRx <+: t.hostRx ∧ (s.busDmxFresh = true → t.busDmxFresh = true)
      ∧ (s.busRdm ≠ none → t.busRdm = s.busRdm) ∧ s.clock.toNat ≤ t.clock.toNat by
    obtain ⟨input, fresh, packet, clock⟩ := ports
    exact ⟨input, fresh, packet, clock, envMove_legal moved⟩
  cases m with
  | hostBytes bytes =>
    cases moved
    exact ⟨⟨bytes, rfl⟩, id, fun _ => rfl, le_rfl⟩
  | offerPacket pkt =>
    rw [envMove] at moved
    split at moved <;> cases moved
    next untaken => exact ⟨⟨[], List.append_nil _⟩, id, fun offered => absurd untaken offered, le_rfl⟩
  | dmxPacket buffer =>
    rw [envMove] at moved
    split at moved <;> cases moved
    exact ⟨⟨[], List.append_nil _⟩, fun _ => rfl, fun _ => rfl, le_rfl⟩
  | tick us =>
    rw [envMove] at moved
    split at moved <;> cases moved
    next no_overflow =>
      refine ⟨⟨[], List.append_nil _⟩, id, fun _ => rfl, ?_⟩
      rw [BitVec.toNat_add, Nat.mod_eq_of_lt no_overflow]
      exact Nat.le_add_right _ _

/-- R5, R50: every state of a run is legal. -/
theorem reachable_legal {P : Params} {s : State} (reachable : Reachable P s) : Legal P s := by
  induction reachable with
  | reset => exact resetWith_legal P
  | step _ stepped legal => exact schedIteration_legal legal stepped
  | env _ moved legal => exact envMove_legal moved legal

/-- Settles O51: a legal state has its `pc` in the tables. -/
theorem noRunStops : Obligations.NoRunStops := by
  intro P s reachable
  have legal := reachable_legal reachable
  obtain ⟨-, inside, -⟩ := (legal_iff P s).1 legal
  exact ⟨legal, schedIteration_next inside⟩

end Sys2Proof.Machine
end

section
/-! What a step of the default tables can do to the flags, the deadline and the stored times: once per table entry, and
then the rules of 41_scheduler.md section 4, 42_host_commands.md section 1, 43_reactions.md section 2, 44_rdm_engine.md
section 5 and 10_state.md section 4. -/

namespace Sys2Proof.Machine

/-! ### The step, by the entry at `pc` -/

/-- R113, D11: what a step of the default tables answers. -/
inductive StepEffect (s : State) : State → Prop where
  | init (at_init : s.pc = ⟨.init, 0⟩) : StepEffect s (schedInit Config.params s)
  | hostRx (at_entry : s.pc = ⟨.poll, 0⟩) : StepEffect s (setPc ⟨.poll, 1⟩ (hostRx Config.params s))
  | rdmInDispatch (at_entry : s.pc = ⟨.poll, 1⟩) : StepEffect s (setPc ⟨.poll, 2⟩ (rdmInDispatch Config.params s))
  | dmxOutPump (at_entry : s.pc = ⟨.poll, 2⟩) : StepEffect s (setPc ⟨.event, 0⟩ (dmxOutPump s))
  | event (j : Nat) (period : U64) (a : Action) (at_entry : s.pc = ⟨.event, j⟩)
      (entry : Config.params.eventTable[j]? = some (period, a)) :
      StepEffect s (setPc (afterEvent Config.params j) (checkEntry Config.params j period a (enterEvent j s)))

theorem step_effect {s t : State} (stepped : step s = .next t) : StepEffect s t := by
  rw [step, exec_schedIteration] at stepped
  rcases schedIteration_cases stepped with
    ⟨hpc, rfl⟩ | ⟨i, a, hpc, entry, rfl⟩ | ⟨-, empty, -⟩ | ⟨j, period, a, hpc, entry, rfl⟩ | ⟨-, empty, -⟩
  · exact .init hpc
  · match i, entry with
    | 0, entry => cases entry; exact .hostRx hpc
    | 1, entry => cases entry; exact .rdmInDispatch hpc
    | 2, entry => cases entry; exact .dmxOutPump hpc
    | i + 3, entry => rw [pollTable_none (Nat.le_add_left 3 i)] at entry; cases entry
  · cases empty
  · exact .event j period a hpc entry
  · cases empty

/-- R153, R157, R158, R160: the fields that an entry of the default event table writes. -/
theorem eventAction_frame (P : Params) (s : State) {a : Action}
    (entry : a ∈ ([.dmxInForward, .changeOfState, .rdmTimeoutCheck, .heartbeat] : List Action)) :
    runAction P s a = { s with
      hostTx := (runAction P s a).hostTx
      cosShadow := (runAction P s a).cosShadow
      busDmxFresh := (runAction P s a).busDmxFresh
      deadline := (runAction P s a).deadline
      trace := (runAction P s a).trace } := by
  simp only [List.mem_cons, List.not_mem_nil, or_false] at entry
  rcases entry with rfl | rfl | rfl | rfl
  · rw [runAction, dmxInForward]
    split <;> rfl
  · rw [runAction]
    rcases changeOfState_cases P s with h | h | h <;> rw [h]
  · rw [runAction]
    rcases rdmTimeoutCheck_cases P s with h | h <;> rw [h]
    rfl
  · rfl

/-- R116: the fields that a check of the default event table writes. -/
theorem checkEntry_frame {j : Nat} {period : U64} {a : Action} (s : State)
    (entry : Config.params.eventTable[j]? = some (period, a)) :
    checkEntry Config.params j period a s = { s with
      lastFire := (checkEntry Config.params j period a s).lastFire
      hostTx := (checkEntry Config.params j period a s).hostTx
      cosShadow := (checkEntry Config.params j period a s).cosShadow
      busDmxFresh := (checkEntry Config.params j period a s).busDmxFresh
      deadline := (checkEntry Config.params j period a s).deadline
      trace := (checkEntry Config.params j period a s).trace } := by
  have table := eventTable_action entry
  rcases checkEntry_default Config.params j period s table with ⟨-, kept⟩ | ⟨-, fired⟩
  · rw [kept]
  · rw [fired, eventAction_frame Config.params s table]
    rfl

/-- R113, R116: what the step at an event entry leaves of the flags and the output clock. -/
theorem event_step_flags {j : Nat} {period : U64} {a : Action} (s : State)
    (entry : Config.params.eventTable[j]? = some (period, a)) :
    (checkEntry Config.params j period a (enterEvent j s)).rdmIsMuted = s.rdmIsMuted
      ∧ (checkEntry Config.params j period a (enterEvent j s)).rdmDiscoveryRunning = s.rdmDiscoveryRunning
      ∧ (checkEntry Config.params j period a (enterEvent j s)).outputOnly = s.outputOnly
      ∧ (checkEntry Config.params j period a (enterEvent j s)).outputElapsedUs = s.outputElapsedUs := by
  rw [checkEntry_frame _ entry]
  unfold enterEvent
  split <;> exact ⟨rfl, rfl, rfl, rfl⟩

/-- R158, R159: an action of the default event table leaves the deadline alone or, RDM_TIMEOUT_CHECK on an expired one,
disarms it. -/
theorem eventAction_deadline (P : Params) (s : State) {a : Action}
    (entry : a ∈ ([.dmxInForward, .changeOfState, .rdmTimeoutCheck, .heartbeat] : List Action)) :
    (runAction P s a).deadline = s.deadline
      ∨ a = .rdmTimeoutCheck ∧ (runAction P s a).deadline = none
        ∧ ∃ t, s.deadline = some t ∧ P.rdmTimeoutUs.toNat < (s.nowE - t).toNat := by
  simp only [List.mem_cons, List.not_mem_nil, or_false] at entry
  rcases entry with rfl | rfl | rfl | rfl
  · rw [runAction, dmxInForward]
    split <;> exact .inl rfl
  · rw [runAction]
    rcases changeOfState_cases P s with h | h | h <;> rw [h] <;> exact .inl rfl
  · rw [runAction]
    cases armed : s.deadline with
    | none => rw [rdmTimeoutCheck_disarmed P armed]; exact .inl armed
    | some t =>
      rw [rdmTimeoutCheck_armed P armed]
      split
      · next expired => exact .inr ⟨rfl, rfl, t, rfl, expired⟩
      · exact .inl armed
  · exact .inl rfl

/-- R112, D11: RDM_TIMEOUT_CHECK is entry 2 of the default event table. -/
theorem eventTable_timeout {j : Nat} {period : U64}
    (entry : Config.params.eventTable[j]? = some (period, .rdmTimeoutCheck)) : j = 2 := by
  match j, entry with
  | 0, entry => cases entry
  | 1, entry => cases entry
  | 2, _ => rfl
  | 3, entry => cases entry
  | j + 4, entry => rw [eventTable_none (Nat.le_add_left 4 j)] at entry; cases entry

/-- R158: what the step at an event entry does to the deadline. -/
theorem event_step_deadline {j : Nat} {period : U64} {a : Action} (s : State)
    (entry : Config.params.eventTable[j]? = some (period, a)) :
    (checkEntry Config.params j period a (enterEvent j s)).deadline = s.deadline
      ∨ j = 2 ∧ (checkEntry Config.params j period a (enterEvent j s)).deadline = none
        ∧ ∃ t, s.deadline = some t ∧ 1000000 < (s.nowE - t).toNat := by
  have entered : (enterEvent j s).deadline = s.deadline := by
    unfold enterEvent
    split <;> rfl
  have table := eventTable_action entry
  rcases checkEntry_default Config.params j period (enterEvent j s) table with ⟨-, kept⟩ | ⟨-, fired⟩
  · exact .inl (by rw [kept, entered])
  · rw [fired, advanceLastFire_deadline]
    rcases eventAction_deadline Config.params (enterEvent j s) table with kept | ⟨rfl, disarmed, expired⟩
    · exact .inl (kept.trans entered)
    · obtain rfl := eventTable_timeout entry
      exact .inr ⟨rfl, disarmed, expired⟩

/-! ### A frame at HOST_RX -/

/-- R66, R130: the two labels whose handlers transmit. -/
theorem hostOpOf_transmits (l : Labels) (label : Byte) :
    (hostOpOf l label = .sendRdmPacket → label = l.sendRdmPacket)
      ∧ (hostOpOf l label = .sendRdmDiscoveryRequest → label = l.sendRdmDiscoveryRequest) := by
  grind [hostOpOf]

/-- R139, R140, R143: a dispatched frame leaves discovery-running and the deadline alone, or it is one of the two that
transmit. -/
theorem dispatch_transmits (P : Params) (f : Frame) (s : State) :
    ((dispatch P f s).rdmDiscoveryRunning = s.rdmDiscoveryRunning ∧ (dispatch P f s).deadline = s.deadline)
      ∨ (f.label = P.labels.sendRdmPacket
        ∧ (dispatch P f s).rdmDiscoveryRunning = isDiscoveryPayload P f.payload
        ∧ (dispatch P f s).deadline = some s.clock)
      ∨ (f.label = P.labels.sendRdmDiscoveryRequest ∧ (dispatch P f s).rdmDiscoveryRunning = true
        ∧ (dispatch P f s).deadline = some s.clock) := by
  obtain ⟨-, discovery, deadline, -⟩ := runHostOp_fields P f s (hostOpOf P.labels f.label)
  rw [dispatch, discovery, deadline]
  cases op : hostOpOf P.labels f.label with
  | sendRdmPacket => exact .inr (.inl ⟨(hostOpOf_transmits _ _).1 op, rfl, rfl⟩)
  | sendRdmDiscoveryRequest => exact .inr (.inr ⟨(hostOpOf_transmits _ _).2 op, rfl, rfl⟩)
  | _ => exact .inl ⟨rfl, rfl⟩

/-- R150: what HOST_RX does to discovery-running and the deadline. -/
theorem hostRx_transmits (P : Params) (s : State) :
    ((hostRx P s).rdmDiscoveryRunning = s.rdmDiscoveryRunning ∧ (hostRx P s).deadline = s.deadline)
      ∨ ∃ f, (decodeBytes P s.codec s.hostRx).event = .frame f ∧ (hostRx P s).deadline = some s.clock
        ∧ (f.label = P.labels.sendRdmPacket ∧ (hostRx P s).rdmDiscoveryRunning = isDiscoveryPayload P f.payload
          ∨ f.label = P.labels.sendRdmDiscoveryRequest ∧ (hostRx P s).rdmDiscoveryRunning = true) := by
  rcases hostRx_cases P s with ⟨f, delivered, h⟩ | ⟨-, h⟩ | ⟨label, len, -, h⟩ <;> rw [h]
  · rcases dispatch_transmits P f (takeDecoded (decodeBytes P s.codec s.hostRx) s) with
      kept | ⟨label, discovery, deadline⟩ | ⟨label, discovery, deadline⟩
    · exact .inl kept
    · exact .inr ⟨f, delivered, deadline, .inl ⟨label, discovery⟩⟩
    · exact .inr ⟨f, delivered, deadline, .inr ⟨label, discovery⟩⟩
  · exact .inl ⟨rfl, rfl⟩
  · exact .inl ⟨rfl, rfl⟩

/-- R131, R137: what HOST_RX does to output-only mode. -/
theorem hostRx_outputOnly (s : State) :
    (hostRx Config.params s).outputOnly = s.outputOnly
      ∨ ∃ f, (decodeBytes Config.params s.codec s.hostRx).event = .frame f
        ∧ if (hostRx Config.params s).outputOnly then f.label = 6
          else f.label ∈ ([4, 7, 8, 10, 11, 77, 78] : List Byte) := by
  rcases hostRx_cases Config.params s with ⟨f, delivered, h⟩ | ⟨-, h⟩ | ⟨label, len, -, h⟩ <;> rw [h]
  · rw [dispatch_outputOnly]
    by_cases clearing : f.label ∈ ([4, 7, 8, 10, 11, 77, 78] : List Byte)
    · rw [if_pos clearing]
      exact .inr ⟨f, delivered, clearing⟩
    rw [if_neg clearing]
    by_cases entering : f.label = 6
    · rw [if_pos entering]
      exact .inr ⟨f, delivered, entering⟩
    · rw [if_neg entering]
      exact .inl rfl
  · exact .inl rfl
  · exact .inl rfl

/-- R150: no frame from the host writes the mute flag. -/
theorem hostRx_rdmIsMuted (P : Params) (s : State) : (hostRx P s).rdmIsMuted = s.rdmIsMuted := by
  rcases hostRx_cases P s with ⟨f, -, h⟩ | ⟨-, h⟩ | ⟨label, len, -, h⟩ <;> rw [h]
  · obtain ⟨-, -, -, muted⟩ := runHostOp_fields P f (takeDecoded (decodeBytes P s.codec s.hostRx) s)
      (hostOpOf P.labels f.label)
    exact muted
  · rfl
  · rfl

/-- R137: a handler leaves the output clock alone or sets it to the clock. -/
theorem runHostOp_outputElapsedUs (P : Params) (f : Frame) (s : State) (op : HostOp) :
    (runHostOp P f s op).outputElapsedUs = s.outputElapsedUs ∨ (runHostOp P f s op).outputElapsedUs = s.clock := by
  cases op with
  | setWidgetParams =>
    rw [runHostOp, setWidgetParams]
    cases P.paramsValidate f.payload <;> exact .inl rfl
  | outputOnlySendDmxPacket => exact .inr rfl
  | receiveDmxOnChange => rw [runHostOp, receiveDmxOnChange_eq]; exact .inl rfl
  | sendRdmPacket => rw [runHostOp, sendRdmPacket, rdmTransmit_eq]; exact .inl rfl
  | sendRdmDiscoveryRequest => rw [runHostOp, sendRdmDiscoveryRequest, rdmTransmit_eq]; exact .inl rfl
  | _ => exact .inl rfl

theorem hostRx_outputElapsedUs (P : Params) (s : State) :
    (hostRx P s).outputElapsedUs = s.outputElapsedUs ∨ (hostRx P s).outputElapsedUs = s.clock := by
  rcases hostRx_cases P s with ⟨f, -, h⟩ | ⟨-, h⟩ | ⟨label, len, -, h⟩ <;> rw [h]
  · exact runHostOp_outputElapsedUs P f (takeDecoded (decodeBytes P s.codec s.hostRx) s) _
  · exact .inl rfl
  · exact .inl rfl

/-! ### A packet at RDM_IN_DISPATCH and a transmission at DMX_OUT_PUMP -/

/-- 44_rdm_engine.md section 5: RDM_IN_DISPATCH writes what the engine writes, and BUS_RDM. -/
theorem rdmInDispatch_frame (P : Params) (s : State) :
    rdmInDispatch P s = { s with
      busRdm := (rdmInDispatch P s).busRdm
      busLog := (rdmInDispatch P s).busLog
      hostTx := (rdmInDispatch P s).hostTx
      rdmIsMuted := (rdmInDispatch P s).rdmIsMuted
      deadline := (rdmInDispatch P s).deadline
      trace := (rdmInDispatch P s).trace } := by
  rcases rdmInDispatch_effect P s with kept | ⟨pkt, -, effect⟩
  · rw [kept]
  · rw [effect.frame]

/-- R173, R174: only an accepted mute or un-mute request writes the mute flag. -/
theorem EngineEffect.rdmIsMuted {P : Params} {pkt : List Byte} {s t : State} (effect : EngineEffect P pkt s t) :
    t.rdmIsMuted = s.rdmIsMuted
      ∨ ∃ v, isRawResponse pkt = false ∧ viewPacket pkt = some v ∧ addressed P v = true
        ∧ v.commandClass = P.rdm.discoveryCommand ∧ v.operands.pdl = 0
        ∧ v.paramId = if t.rdmIsMuted then P.rdm.discMute else P.rdm.discUnMute := by
  cases effect with
  | mute v flag sent not_raw view to_me discovery no_data selected =>
    exact .inr ⟨v, not_raw, view, to_me, discovery, no_data, selected⟩
  | _ => exact .inl rfl

/-- R100: a frame has at least five bytes, so writing one changes the stream. -/
theorem append_encodeFrame_ne (P : Params) (label : Byte) (payload sent more : List Byte) :
    sent ++ encodeFrame P label payload ++ more ≠ sent := by
  intro same
  have lengths := congrArg List.length same
  simp only [List.length_append, encodeFrame_length] at lengths
  omega

/-- R180, R181: the engine disarms the deadline only with a frame to the host. -/
theorem EngineEffect.deadline {P : Params} {pkt : List Byte} {s t : State} (effect : EngineEffect P pkt s t) :
    t.deadline = s.deadline ∨ t.deadline = none ∧ t.hostTx ≠ s.hostTx := by
  cases effect with
  | reply => exact .inl rfl
  | mute => exact .inl rfl
  | response k => exact .inr ⟨rfl, append_encodeFrame_ne P _ _ s.hostTx _⟩
  | forward k =>
    have grown := append_encodeFrame_ne P P.labels.receivedDmxPacket (rdmForwardPayload pkt k) s.hostTx []
    rw [List.append_nil] at grown
    exact .inr ⟨rfl, grown⟩

theorem rdmInDispatch_deadline (P : Params) (s : State) :
    (rdmInDispatch P s).deadline = s.deadline
      ∨ (rdmInDispatch P s).deadline = none ∧ s.busRdm ≠ none ∧ (rdmInDispatch P s).hostTx ≠ s.hostTx := by
  rcases rdmInDispatch_effect P s with kept | ⟨pkt, offered, effect⟩
  · exact .inl (by rw [kept])
  · rcases effect.deadline with kept | ⟨disarmed, grown⟩
    · exact .inl kept
    · exact .inr ⟨disarmed, by rw [offered]; exact Option.some_ne_none pkt, grown⟩

/-- R151: the fields the pump writes. -/
theorem dmxOutPump_frame (s : State) :
    dmxOutPump s = { s with
      busLog := (dmxOutPump s).busLog
      outputElapsedUs := (dmxOutPump s).outputElapsedUs } := by
  rcases dmxOutPump_cases s with h | ⟨-, -, h⟩ <;> rw [h]
  rfl

/-! ### What changes the flags and the deadline -/

/-- Settles O53, by the entry at `pc`. -/
theorem onlyMuteRequestsChangeTheFlag : Obligations.OnlyMuteRequestsChangeTheFlag := by
  intro s t stepped changed
  cases step_effect stepped with
  | init => exact absurd rfl changed
  | hostRx => exact absurd (hostRx_rdmIsMuted _ s) changed
  | rdmInDispatch at_entry =>
    refine ⟨at_entry, ?_⟩
    rcases rdmInDispatch_effect Config.params s with kept | ⟨pkt, offered, effect⟩
    · exact absurd (congrArg State.rdmIsMuted kept) changed
    · rcases effect.rdmIsMuted with kept | ⟨v, not_raw, view, to_me, discovery, no_data, selected⟩
      · exact absurd kept changed
      · exact ⟨pkt, v, offered, fun head => Bool.false_ne_true (not_raw.symm.trans ((isRawResponse_iff pkt).2 head)),
          view, to_me, discovery, no_data, selected⟩
  | dmxOutPump => exact absurd (congrArg State.rdmIsMuted (dmxOutPump_frame s)) changed
  | event j period a at_entry entry =>
    obtain ⟨muted, -⟩ := event_step_flags s entry
    exact absurd muted changed

/-- Settles O54, by the entry at `pc`. -/
theorem onlyRdmCommandsChangeDiscoveryRunning : Obligations.OnlyRdmCommandsChangeDiscoveryRunning := by
  intro s t stepped changed
  cases step_effect stepped with
  | init => exact absurd rfl changed
  | hostRx at_entry =>
    refine ⟨at_entry, ?_⟩
    rcases hostRx_transmits Config.params s with ⟨kept, -⟩ | ⟨f, delivered, -, ⟨label, written⟩ | ⟨label, written⟩⟩
    · exact absurd kept changed
    · refine ⟨f, delivered, ?_⟩
      rw [setPc_rdmDiscoveryRunning, written, isDiscoveryPayload_eq]
      split
      · next discovery => exact .inr ⟨label, of_decide_eq_true discovery⟩
      · next other => exact ⟨label, fun discovery => other (decide_eq_true discovery)⟩
    · refine ⟨f, delivered, ?_⟩
      rw [setPc_rdmDiscoveryRunning, written, if_pos rfl]
      exact .inl label
  | rdmInDispatch => exact absurd (congrArg State.rdmDiscoveryRunning (rdmInDispatch_frame Config.params s)) changed
  | dmxOutPump => exact absurd (congrArg State.rdmDiscoveryRunning (dmxOutPump_frame s)) changed
  | event j period a at_entry entry =>
    obtain ⟨-, discovery, -⟩ := event_step_flags s entry
    exact absurd discovery changed

/-- Settles O55, by the entry at `pc`. -/
theorem onlyTheseLabelsChangeOutputOnly : Obligations.OnlyTheseLabelsChangeOutputOnly := by
  intro s t stepped changed
  cases step_effect stepped with
  | init => exact absurd rfl changed
  | hostRx at_entry =>
    refine ⟨at_entry, ?_⟩
    rcases hostRx_outputOnly s with kept | label
    · exact absurd kept changed
    · exact label
  | rdmInDispatch => exact absurd (congrArg State.outputOnly (rdmInDispatch_frame Config.params s)) changed
  | dmxOutPump => exact absurd (congrArg State.outputOnly (dmxOutPump_frame s)) changed
  | event j period a at_entry entry =>
    obtain ⟨-, -, output, -⟩ := event_step_flags s entry
    exact absurd output changed

/-- Settles O56, by the entry at `pc`. -/
theorem onlyTransmitArmsTheDeadline : Obligations.OnlyTransmitArmsTheDeadline := by
  intro s t stepped changed
  cases step_effect stepped with
  | init => exact absurd rfl changed
  | hostRx at_entry =>
    rcases hostRx_transmits Config.params s with ⟨-, kept⟩ | ⟨f, delivered, armed, label⟩
    · exact absurd kept changed
    · exact .inl ⟨at_entry, armed, f, delivered, label.imp And.left And.left⟩
  | rdmInDispatch at_entry =>
    rcases rdmInDispatch_deadline Config.params s with kept | ⟨disarmed, offered, grown⟩
    · exact absurd kept changed
    · exact .inr (.inl ⟨at_entry, disarmed, offered, grown⟩)
  | dmxOutPump => exact absurd (congrArg State.deadline (dmxOutPump_frame s)) changed
  | event j period a at_entry entry =>
    rcases event_step_deadline s entry with kept | ⟨rfl, disarmed, expired⟩
    · exact absurd kept changed
    · exact .inr (.inr ⟨at_entry, disarmed, expired⟩)

/-! ### Stored times -/

/-- R118: an action that arms the deadline, if at all, with the clock, and leaves an output clock in the past. -/
theorem TimesPast.action {s t : State} (past : TimesPast s) (kept : SchedulerFieldsKept s t)
    (deadline : t.deadline = s.deadline ∨ t.deadline = some s.clock ∨ t.deadline = none)
    (elapsed : t.outputElapsedUs.toNat ≤ s.clock.toNat) : TimesPast t := by
  obtain ⟨armed, sample, -, counters⟩ := past
  obtain ⟨-, counters_kept, sample_kept, -, -, clock_kept⟩ := kept
  rw [TimesPast, counters_kept, sample_kept, clock_kept]
  refine ⟨fun x hx => ?_, sample, elapsed, counters⟩
  rcases deadline with same | clock | disarmed
  · exact armed x (same.symm.trans hx)
  · cases clock.symm.trans hx
    exact le_rfl
  · cases disarmed.symm.trans hx

/-- R116, R118: a check advances a counter to a time that is not past the sample. -/
theorem checkEntry_counters_past {P : Params} {j : Nat} {period : U64} {a : Action} {s : State} {bound : Nat}
    (sample : s.nowE.toNat ≤ bound) (counters : ∀ t ∈ s.lastFire, t.toNat ≤ bound) :
    ∀ t ∈ (checkEntry P j period a s).lastFire, t.toNat ≤ bound := by
  rcases checkEntry_cases P j period a s with ⟨-, kept⟩ | ⟨due, fired⟩
  · rwa [kept]
  · obtain ⟨-, counters_kept, -⟩ := runEventAction_kept P s a
    intro t ht
    rw [fired, advanceLastFire_lastFire, lastFireAt, counters_kept] at ht
    rcases List.mem_or_eq_of_mem_set ht with old | rfl
    · exact counters t old
    · exact Nat.le_trans ((eventDue_iff ..).1 due) sample

/-- R118, R151: the pump advances the output clock to a time that is not past the clock. -/
theorem dmxOutPump_elapsed_past {s : State} (past : s.outputElapsedUs.toNat ≤ s.clock.toNat) :
    (dmxOutPump s).outputElapsedUs.toNat ≤ s.clock.toNat := by
  rcases dmxOutPump_cases s with h | ⟨-, due, h⟩ <;> rw [h]
  · exact past
  · exact of_decide_eq_true due

/-- R113, R115: entering the event pass samples the clock, so the sample stays in its past, and the armed deadline is no
later than the sample that the pass goes on with. -/
theorem enterEvent_past {s : State} {j : Nat} (past : TimesPast s) (before : DeadlineBeforeSample s)
    (at_event : s.pc = ⟨.event, j⟩) :
    (enterEvent j s).nowE.toNat ≤ s.clock.toNat ∧ ∀ t, s.deadline = some t → t.toNat ≤ (enterEvent j s).nowE.toNat := by
  obtain ⟨armed, sample, -, -⟩ := past
  unfold enterEvent
  split
  · exact ⟨le_rfl, armed⟩
  · next later =>
    exact ⟨sample, before (by rw [at_event]) (by rw [at_event]; exact Nat.pos_of_ne_zero later)⟩

/-- Settles O52, by the entry at `pc`: an action that stores a time stores the clock or, after the comparison that makes it
due, a sum that is not past it. -/
theorem storedTimesStayInThePast : Obligations.StoredTimesStayInThePast := by
  intro s t past before stepped
  have ⟨armed, sample, elapsed, counters⟩ := past
  cases step_effect stepped with
  | init =>
    refine ⟨⟨armed, sample, elapsed, ?_⟩, nofun⟩
    intro x hx
    obtain ⟨-, -, rfl⟩ := List.mem_map.1 hx
    exact le_rfl
  | hostRx =>
    refine ⟨past.action (t := hostRx Config.params s) (runAction_kept Config.params s .hostRx) ?_ ?_, nofun⟩
    · rcases hostRx_transmits Config.params s with ⟨-, kept⟩ | ⟨-, -, sampled, -⟩
      · exact .inl kept
      · exact .inr (.inl sampled)
    · rcases hostRx_outputElapsedUs Config.params s with kept | sampled
      · rwa [kept]
      · rw [sampled]
  | rdmInDispatch =>
    have kept := runAction_kept Config.params s .rdmInDispatch
    refine ⟨past.action (t := rdmInDispatch Config.params s) kept ?_ ?_, nofun⟩
    · rcases rdmInDispatch_deadline Config.params s with kept | ⟨disarmed, -⟩
      · exact .inl kept
      · exact .inr (.inr disarmed)
    · rwa [rdmInDispatch_frame]
  | dmxOutPump =>
    refine ⟨past.action (t := dmxOutPump s) (runAction_kept Config.params s .dmxOutPump) ?_
      (dmxOutPump_elapsed_past elapsed), fun _ inside => absurd inside (Nat.lt_irrefl 0)⟩
    exact .inl (by rw [dmxOutPump_frame])
  | event j period a at_event entry =>
    obtain ⟨sample_past, armed_before⟩ := enterEvent_past past before at_event
    obtain ⟨-, counters_kept, -, -, clock_kept⟩ := enterEvent_kept j s
    obtain ⟨⟨-, -, -, -, -, clock_kept'⟩, -⟩ := checkEntry_kept Config.params j period a (enterEvent j s)
    obtain ⟨-, -, -, elapsed_kept⟩ := event_step_flags s entry
    have still_armed : ∀ x, (checkEntry Config.params j period a (enterEvent j s)).deadline = some x →
        s.deadline = some x := by
      intro x hx
      rcases event_step_deadline s entry with kept | ⟨-, disarmed, -⟩
      · exact kept.symm.trans hx
      · cases disarmed.symm.trans hx
    have clock : (checkEntry Config.params j period a (enterEvent j s)).clock = s.clock := clock_kept'.trans clock_kept
    refine ⟨⟨fun x hx => ?_, ?_, ?_, ?_⟩, fun _ _ x hx => ?_⟩
    · rw [setPc_clock, clock]
      exact armed x (still_armed x hx)
    · rw [setPc_clock, clock, setPc_nowE, checkEntry_nowE]
      exact sample_past
    · rw [setPc_clock, clock, setPc_outputElapsedUs, elapsed_kept]
      exact elapsed
    · rw [setPc_clock, clock]
      exact checkEntry_counters_past sample_past (by rwa [counters_kept])
    · rw [setPc_nowE, checkEntry_nowE]
      exact armed_before x (still_armed x hx)

end Sys2Proof.Machine
end

section
/-! What the block writes out: a step only appends to HOST_TX, BUS_LOG and the config_store log, HOST_TX by whole frames,
and raises at most one condition (40_frame_codec.md section 3, 60_exceptions.md section 3, 10_state.md section 6). -/

namespace Sys2Proof.Machine

/-- R65: the labels of the frames the block writes, for every value of the parameters. -/
def writtenLabels (l : Labels) : List Byte :=
  [l.getWidgetParams, l.receivedDmxPacket, l.receivedDmxCos, l.getWidgetSn, l.rdmTimeout, l.manufacturerLabel,
    l.getWidgetName]

theorem writtenLabels_default : writtenLabels Config.params.labels = widgetToHostLabels := rfl

theorem framesBytes_append (P : Params) (fs gs : List Frame) :
    framesBytes P (fs ++ gs) = framesBytes P fs ++ framesBytes P gs := List.flatMap_append

/-- R101: the bytes of frames whose payloads are cut at CAP are those of the payloads. -/
theorem framesBytes_cut (P : Params) (label : Byte) (payloads : List (List Byte)) :
    framesBytes P (payloads.map fun q => ⟨label, q.take P.cap⟩) = payloads.flatMap (encodeFrame P label) := by
  simp only [framesBytes, List.flatMap_map, encodeFrame_take]

/-- R102, R190, R204: from `s` to `t` the outputs grew, HOST_TX by whole frames the block may write, and at most `n`
conditions were raised. -/
structure Appends (P : Params) (n : Nat) (s t : State) : Prop where
  frames : ∃ fs, t.hostTx = s.hostTx ++ framesBytes P fs
    ∧ ∀ f ∈ fs, f.label ∈ writtenLabels P.labels ∧ f.payload.length ≤ P.cap
  busLog : s.busLog <+: t.busLog
  configLog : s.configLog <+: t.configLog
  trace : ∃ raised, t.trace = s.trace ++ raised ∧ raised.length ≤ n

namespace Appends

variable {P : Params} {m n : Nat} {s t u : State}

theorem untouched (hostTx : t.hostTx = s.hostTx) (busLog : t.busLog = s.busLog) (configLog : t.configLog = s.configLog)
    (trace : t.trace = s.trace) : Appends P 0 s t where
  frames := ⟨[], by rw [hostTx]; exact (List.append_nil _).symm, by simp⟩
  busLog := ⟨[], by rw [busLog, List.append_nil]⟩
  configLog := ⟨[], by rw [configLog, List.append_nil]⟩
  trace := ⟨[], by rw [trace, List.append_nil], le_rfl⟩

theorem refl (s : State) : Appends P 0 s s := untouched rfl rfl rfl rfl

theorem of_quiet (quiet : Appends P 0 s t) : Appends P n s t := by
  obtain ⟨frames, bus, config, ⟨raised, htrace, count⟩⟩ := quiet
  exact ⟨frames, bus, config, ⟨raised, htrace, Nat.le_trans count (Nat.zero_le n)⟩⟩

theorem trans (first : Appends P m s t) (second : Appends P n t u) : Appends P (m + n) s u := by
  obtain ⟨⟨fs, hfs, labels⟩, bus, config, ⟨raised, htrace, count⟩⟩ := first
  obtain ⟨⟨gs, hgs, labels'⟩, bus', config', ⟨raised', htrace', count'⟩⟩ := second
  refine ⟨⟨fs ++ gs, ?_, fun f hf => (List.mem_append.1 hf).elim (labels f) (labels' f)⟩, bus.trans bus',
    config.trans config', ⟨raised ++ raised', ?_, ?_⟩⟩
  · rw [hgs, hfs, framesBytes_append, List.append_assoc]
  · rw [htrace', htrace, List.append_assoc]
  · rw [List.length_append]
    exact Nat.add_le_add count count'

/-- Whatever raises nothing may come first. -/
theorem after_quiet (first : Appends P 0 s t) (second : Appends P n t u) : Appends P n s u :=
  Nat.zero_add n ▸ first.trans second

/-- Whatever raises nothing may come last. -/
theorem then_quiet (first : Appends P n s t) (second : Appends P 0 t u) : Appends P n s u := first.trans second

/-! ### The ports and the raising of a condition -/

/-- R100, R101: writing frames of one label. -/
theorem written {label : Byte} (known : label ∈ writtenLabels P.labels) (payloads : List (List Byte))
    (hostTx : t.hostTx = s.hostTx ++ payloads.flatMap (encodeFrame P label)) (busLog : t.busLog = s.busLog)
    (configLog : t.configLog = s.configLog) (trace : t.trace = s.trace) : Appends P 0 s t where
  frames := by
    refine ⟨payloads.map fun q => ⟨label, q.take P.cap⟩, by rw [framesBytes_cut, hostTx], fun f hf => ?_⟩
    obtain ⟨q, -, rfl⟩ := List.mem_map.1 hf
    exact ⟨known, List.length_take_le _ _⟩
  busLog := ⟨[], by rw [busLog, List.append_nil]⟩
  configLog := ⟨[], by rw [configLog, List.append_nil]⟩
  trace := ⟨[], by rw [trace, List.append_nil], le_rfl⟩

theorem emit {label : Byte} (known : label ∈ writtenLabels P.labels) (payload : List Byte) (s : State) :
    Appends P 0 s (emit P label payload s) :=
  written known [payload] (by rw [emit_eq, List.flatMap_cons, List.flatMap_nil, List.append_nil]) rfl rfl rfl

theorem logged (entries : List BusEvent) (hostTx : t.hostTx = s.hostTx) (busLog : t.busLog = s.busLog ++ entries)
    (configLog : t.configLog = s.configLog) (trace : t.trace = s.trace) : Appends P 0 s t where
  frames := ⟨[], by rw [hostTx]; exact (List.append_nil _).symm, by simp⟩
  busLog := ⟨entries, busLog.symm⟩
  configLog := ⟨[], by rw [configLog, List.append_nil]⟩
  trace := ⟨[], by rw [trace, List.append_nil], le_rfl⟩

theorem setDirection (d : Direction) (force : Bool) (s : State) : Appends P 0 s (setDirection d force s) :=
  logged [.dir d force] rfl rfl rfl rfl

theorem clearOutputOnly (s : State) : Appends P 0 s (clearOutputOnly s) := untouched rfl rfl rfl rfl

theorem raise (c : Condition) (s : State) : Appends P 1 s (raise c s) := by
  obtain ⟨frames, bus, config, -⟩ := refl (P := P) s
  exact ⟨frames, bus, config, ⟨[c], rfl, le_rfl⟩⟩

theorem disarmDeadline (s : State) : Appends P 0 s (disarmDeadline s) := untouched rfl rfl rfl rfl

theorem rdmTransmit (bytes : List Byte) (s : State) : Appends P 0 s (rdmTransmit bytes s) := by
  rw [rdmTransmit_eq]
  exact logged _ rfl rfl rfl rfl

end Appends

/-! ### Handlers, the engine and the actions -/

/-- R132, R134 to R136, R154, R157, R159, R179: every label the block writes is one of the seven. -/
theorem mem_writtenLabels (l : Labels) :
    l.getWidgetParams ∈ writtenLabels l ∧ l.receivedDmxPacket ∈ writtenLabels l ∧ l.receivedDmxCos ∈ writtenLabels l
      ∧ l.getWidgetSn ∈ writtenLabels l ∧ l.rdmTimeout ∈ writtenLabels l ∧ l.manufacturerLabel ∈ writtenLabels l
      ∧ l.getWidgetName ∈ writtenLabels l := by
  simp [writtenLabels]

/-- R133: an accepted configuration is one `config_store`. -/
theorem storeConfig_appends (P : Params) (c : WidgetConfig) (s : State) : Appends P 0 s (storeConfig P c s) := by
  obtain ⟨frames, bus, -, raised⟩ := Appends.refl (P := P) s
  exact ⟨frames, bus, ⟨[c], rfl⟩, raised⟩

/-- R132 to R141: the reply handlers write one frame, the transmit handlers one sequence on the bus, and only an unknown
label raises a condition. -/
theorem runHostOp_appends (P : Params) (f : Frame) (s : State) (op : HostOp) : Appends P 1 s (runHostOp P f s op) := by
  obtain ⟨params, -, -, sn, -, manufacturer, name⟩ := mem_writtenLabels P.labels
  have reply : ∀ {label : Byte} (payload : List Byte), label ∈ writtenLabels P.labels →
      Appends P 1 s (setDirection .input true (emit P label payload (clearOutputOnly s))) := fun payload known =>
    .of_quiet (((Appends.clearOutputOnly s).then_quiet (.emit known payload _)).then_quiet (.setDirection _ _ _))
  cases op with
  | getWidgetParams => exact .of_quiet (.emit params _ s)
  | getWidgetSn => exact reply _ sn
  | manufacturerLabel => exact reply _ manufacturer
  | getWidgetName => exact reply _ name
  | setWidgetParams =>
    have forced : ∀ u, Appends P 0 (clearOutputOnly s) u → Appends P 1 s (setDirection .input true u) := fun u stored =>
      .of_quiet (((Appends.clearOutputOnly s).then_quiet stored).then_quiet (.setDirection _ _ _))
    rw [runHostOp, setWidgetParams]
    cases P.paramsValidate f.payload with
    | none => exact forced _ (.refl _)
    | some c => exact forced _ (storeConfig_appends P c _)
  | outputOnlySendDmxPacket =>
    rw [runHostOp, outputOnlySendDmxPacket_eq]
    exact .of_quiet (.logged [.dir .output true] rfl rfl rfl rfl)
  | receiveDmxOnChange =>
    rw [runHostOp, receiveDmxOnChange_eq]
    exact .of_quiet (.logged [.dir .input false, .dir .input true] rfl rfl rfl rfl)
  | sendRdmPacket =>
    have flags : Appends P 0 s (setDiscoveryRunning (isDiscoveryPayload P f.payload) (clearOutputOnly s)) :=
      .untouched rfl rfl rfl rfl
    exact .of_quiet (flags.then_quiet (.rdmTransmit f.payload _))
  | sendRdmDiscoveryRequest =>
    have flags : Appends P 0 s (setDiscoveryRunning true (clearOutputOnly s)) := .untouched rfl rfl rfl rfl
    exact .of_quiet (flags.then_quiet (.rdmTransmit f.payload _))
  | unknown => exact .raise _ s

/-- R179: FORWARD writes one frame. -/
theorem receivedDmxPacketRdm_appends (P : Params) (pkt : List Byte) (k : Nat) (s : State) :
    Appends P 0 s (receivedDmxPacketRdm P pkt k s) := by
  obtain ⟨-, packet, -⟩ := mem_writtenLabels P.labels
  exact .emit packet _ s

/-- R159: the timeout path raises its condition and writes one frame. -/
theorem timeoutPath_appends (P : Params) (s : State) : Appends P 1 s (timeoutPath P s) := by
  obtain ⟨-, -, -, -, timeout, -⟩ := mem_writtenLabels P.labels
  exact ((Appends.raise _ s).then_quiet (.emit timeout [] _)).then_quiet (.disarmDeadline _)

theorem EngineEffect.appends {P : Params} {pkt : List Byte} {s t : State} (effect : EngineEffect P pkt s t) :
    Appends P 1 s t := by
  cases effect with
  | reply sent raised one =>
    obtain ⟨frames, -, config, -⟩ := Appends.refl (P := P) s
    exact ⟨frames, ⟨sent, rfl⟩, config, ⟨raised, rfl, one⟩⟩
  | mute v flag sent => exact .of_quiet (.logged sent rfl rfl rfl rfl)
  | response k => exact (receivedDmxPacketRdm_appends P pkt k s).after_quiet (timeoutPath_appends P _)
  | forward k => exact .of_quiet ((receivedDmxPacketRdm_appends P pkt k s).then_quiet (.disarmDeadline _))

/-- R112: an action only appends, and raises at most one condition. -/
theorem runAction_appends (P : Params) (s : State) (a : Action) : Appends P 1 s (runAction P s a) := by
  obtain ⟨-, packet, changes, -⟩ := mem_writtenLabels P.labels
  have kept : Appends P 1 s s := .of_quiet (.refl s)
  cases a with
  | hostRx =>
    have decoded : ∀ r, Appends P 0 s (takeDecoded r s) := fun r => .untouched rfl rfl rfl rfl
    rw [runAction]
    rcases hostRx_cases P s with ⟨f, -, h⟩ | ⟨-, h⟩ | ⟨label, len, -, h⟩ <;> rw [h]
    · exact (decoded _).after_quiet (runHostOp_appends P f _ _)
    · exact .of_quiet (decoded _)
    · exact (decoded _).after_quiet (.raise _ _)
  | rdmInDispatch =>
    have taken : Appends P 0 s { s with busRdm := none } := .untouched rfl rfl rfl rfl
    rw [runAction]
    rcases rdmInDispatch_effect P s with h | ⟨pkt, -, effect⟩
    · rwa [h]
    · exact taken.after_quiet effect.appends
  | dmxOutPump =>
    rw [runAction]
    rcases dmxOutPump_cases s with h | ⟨-, -, h⟩ <;> rw [h]
    · exact kept
    · exact .of_quiet (.logged [.send (memRead s.dmxBuf 0 s.outputLength)] rfl rfl rfl rfl)
  | dmxInForward =>
    have consumed : ∀ u, Appends P 0 u (busDmxConsume u) := fun u => .untouched rfl rfl rfl rfl
    rw [runAction, dmxInForward]
    split
    · exact .of_quiet (.then_quiet (.emit packet _ s) (consumed _))
    · exact kept
  | changeOfState =>
    rw [runAction]
    rcases changeOfState_cases P s with h | h | h <;> rw [h]
    · exact kept
    · exact .of_quiet (.untouched rfl rfl rfl rfl)
    · exact .of_quiet (.written changes (P.cosEncode s.cosShadow s.dmxBuf) rfl rfl rfl rfl)
  | rdmTimeoutCheck =>
    rw [runAction]
    rcases rdmTimeoutCheck_cases P s with h | h <;> rw [h]
    · exact kept
    · exact timeoutPath_appends P s
  | heartbeat => exact kept

/-- R115, R116: so does a check, whose action reads NOW_E in place of the clock. -/
theorem checkEntry_appends (P : Params) (j : Nat) (period : U64) (a : Action) (s : State) :
    Appends P 1 s (checkEntry P j period a s) := by
  rcases checkEntry_cases P j period a s with ⟨-, kept⟩ | ⟨-, fired⟩
  · rw [kept]
    exact .of_quiet (.refl s)
  · have sampled : Appends P 0 s { s with clock := s.nowE } := .untouched rfl rfl rfl rfl
    have counted : Appends P 0 (runAction P { s with clock := s.nowE } a)
        (advanceLastFire j period (runEventAction P s a)) := .untouched rfl rfl rfl rfl
    rw [fired]
    exact (sampled.after_quiet (runAction_appends P _ a)).then_quiet counted

/-- R113: a step only appends, for every value of the parameters. -/
theorem schedIteration_appends {P : Params} {s t : State} (stepped : schedIteration P s = .next t) :
    Appends P 1 s t := by
  have advanced : ∀ p u, Appends P 0 u (setPc p u) := fun p u => .untouched rfl rfl rfl rfl
  rcases schedIteration_cases stepped with
    ⟨-, rfl⟩ | ⟨i, a, -, -, rfl⟩ | ⟨-, -, rfl⟩ | ⟨j, period, a, -, -, rfl⟩ | ⟨-, -, rfl⟩
  · exact .of_quiet (.untouched rfl rfl rfl rfl)
  · exact (runAction_appends P s a).then_quiet (advanced _ _)
  · exact .of_quiet (advanced _ s)
  · have entered : Appends P 0 s (enterEvent j s) := by
      unfold enterEvent
      split <;> exact .untouched rfl rfl rfl rfl
    exact (entered.after_quiet (checkEntry_appends P j period a _)).then_quiet (advanced _ _)
  · exact .of_quiet (.untouched rfl rfl rfl rfl)

/-- R17, R119: no step writes the clock or the mode. -/
theorem schedIteration_clock_mode {P : Params} {s t : State} (stepped : schedIteration P s = .next t) :
    t.clock = s.clock ∧ t.mode = s.mode := by
  rcases schedIteration_cases stepped with
    ⟨-, rfl⟩ | ⟨i, a, -, -, rfl⟩ | ⟨-, -, rfl⟩ | ⟨j, period, a, -, -, rfl⟩ | ⟨-, -, rfl⟩
  · exact ⟨rfl, rfl⟩
  · obtain ⟨-, -, -, -, mode, clock⟩ := runAction_kept P s a
    exact ⟨clock, mode⟩
  · exact ⟨rfl, rfl⟩
  · obtain ⟨-, -, -, mode, clock⟩ := enterEvent_kept j s
    obtain ⟨⟨-, -, -, -, mode', clock'⟩, -⟩ := checkEntry_kept P j period a (enterEvent j s)
    exact ⟨clock'.trans clock, mode'.trans mode⟩
  · exact ⟨rfl, rfl⟩

/-- Settles O57: at most one condition is none or one. -/
theorem stepOnlyAppendsItsOutputs : Obligations.StepOnlyAppendsItsOutputs := by
  intro s t stepped
  obtain ⟨⟨fs, frames, -⟩, bus, config, ⟨raised, trace, count⟩⟩ := schedIteration_appends stepped
  refine ⟨⟨framesBytes Config.params fs, frames.symm⟩, bus, config, ?_, schedIteration_clock_mode stepped⟩
  match raised, count with
  | [], _ => exact .inl (by rw [trace, List.append_nil])
  | [c], _ => exact .inr ⟨c, trace⟩

/-- R102, R103: in every state of a run HOST_TX is a sequence of whole frames, for every value of the parameters. -/
theorem reachable_frames {P : Params} {s : State} (reachable : Reachable P s) :
    ∃ fs, s.hostTx = framesBytes P fs ∧ ∀ f ∈ fs, f.label ∈ writtenLabels P.labels ∧ f.payload.length ≤ P.cap := by
  induction reachable with
  | reset => exact ⟨[], rfl, by simp⟩
  | step _ stepped ih =>
    obtain ⟨fs, sent, known⟩ := ih
    obtain ⟨⟨gs, more, known'⟩, -, -, -⟩ := schedIteration_appends stepped
    exact ⟨fs ++ gs, by rw [more, sent, framesBytes_append],
      fun f hf => (List.mem_append.1 hf).elim (known f) (known' f)⟩
  | env _ moved ih =>
    rw [envMove_frame moved]
    exact ih

/-- Settles O58. -/
theorem hostOutputIsWholeFrames : Obligations.HostOutputIsWholeFrames := by
  intro s reachable
  rw [← writtenLabels_default]
  exact reachable_frames reachable

end Sys2Proof.Machine
end
